-- ==== Sys2Proof/Word.lean ====
section
/-! DEFINITION. The widths the block works in: the 64-bit command word (30_encoding.md R90), the 32-bit operand and
response value (30_encoding.md R91, 10_state.md R23) and the 8-bit control registers (10_state.md R29). -/

namespace Sys2Proof

/-- One command word: a 64-bit unit, with no bytes and so no byte order (20_memory.md R72). -/
abbrev Word := BitVec 64

/-- The operand field IMM and the response value RESP.value. -/
abbrev Operand := BitVec 32

/-- A control register of a peripheral: CTRLA, CTRLB, IMSK, IFLG, DIR, CLKEN. -/
abbrev Byte := BitVec 8

end Sys2Proof
end

