-- ==== Sys2Proof/Syntax.lean ====
section
/-! DEFINITION. The names of the block's parts (00_scope.md R2, 10_state.md R31) and its commands, one constructor for each
row of spec/opcode_table.json (30_encoding.md R96). -/

namespace Sys2Proof

/-- The two peripheral instances (00_scope.md R2). -/
inductive Periph where
  | t16
  | t8
deriving DecidableEq, Repr, Inhabited

/-- W(P), the counter width (00_scope.md R7). -/
abbrev Periph.width : Periph → Nat
  | .t16 => 16
  | .t8 => 8

/-- The two channels of a peripheral (00_scope.md R2). -/
inductive Channel where
  | a
  | b
deriving DecidableEq, Repr

/-- The registers of a peripheral, in the order of their SEL index (10_state.md R31). -/
inductive Reg where
  | ctrlA
  | ctrlB
  | cnt
  | per
  | cmpA
  | cmpB
  | imsk
  | iflg
  | dir
  | clken
deriving DecidableEq, Repr

/-- The commands of SPT-CMD version 1 (30_encoding.md R95, R96), with their operands as R95 names them. -/
inductive Instr where
  /-- LIMIT nanos (40_shared_contract.md R121). -/
  | limit (nanos : Operand)
  /-- BIT shift (40_shared_contract.md R123). -/
  | bit (shift : BitVec 4)
  /-- CONV: the peripheral, the frequency code (SEL; 0 on T8) and the duration (41_converter.md R140). -/
  | conv (p : Periph) (code : BitVec 4) (nanos : Operand)
  /-- CAPS (40_shared_contract.md R124). -/
  | caps
  /-- WR: peripheral, register, value (42_register_access.md R160). -/
  | wr (p : Periph) (r : Reg) (value : Operand)
  /-- RD: peripheral, register (42_register_access.md R163). -/
  | rd (p : Periph) (r : Reg)
  /-- PREPARE (43_timer_operations.md R184). -/
  | prepare (p : Periph)
  /-- START (43_timer_operations.md R185). -/
  | start (p : Periph)
  /-- PULSE: valueA and valueB, the halves of IMM (43_timer_operations.md R187). -/
  | pulse (p : Periph) (valueA valueB : BitVec 16)
  /-- PULSEA (43_timer_operations.md R190). -/
  | pulseA (p : Periph) (value : Operand)
  /-- PULSEB (43_timer_operations.md R191). -/
  | pulseB (p : Periph) (value : Operand)
  /-- STOP (43_timer_operations.md R192). -/
  | stop (p : Periph)
deriving DecidableEq, Repr

end Sys2Proof
end

