-- ==== Sys2Proof/Config.lean ====
section
/-! DEFINITION. What is fixed before reset (10_state.md R21, 00_scope.md R9), and the free values: constants with no body,
so that nothing can evaluate them or prove a value of them (log entries 3 to 6). -/

namespace Sys2Proof

/-- F_CPU: one of exactly two supported values (00_scope.md R9). A third is "a build-time fatal error" (60_exceptions.md
R265): the type has no third value, so no run exists for it. -/
inductive Freq where
  | ref
  | alt
deriving DecidableEq, Repr, Inhabited

/-- The nonzero clock-select codes 1..7 (10_state.md R34, R35). -/
inductive CsCode where
  | c1 | c2 | c3 | c4 | c5 | c6 | c7
deriving DecidableEq, Repr, Inhabited

/-- The code as the value of the field CTRLB.CS. -/
def CsCode.value : CsCode → Nat
  | .c1 => 1 | .c2 => 2 | .c3 => 3 | .c4 => 4 | .c5 => 5 | .c6 => 6 | .c7 => 7

/-- CONV16_ORDER: which operand the pre-division by 10 applies to (41_converter.md R142). -/
inductive ConvOrder where
  | scaleFirst
  | inputFirst
deriving DecidableEq, Repr

/-- REFRESH_VALUE(P) ∈ {MAX, TOP} (60_exceptions.md R253). -/
inductive RefreshSel where
  | max
  | top
deriving DecidableEq, Repr

/-- One value for each peripheral. -/
structure PerPeriph (α : Type) where
  t16 : α
  t8 : α
deriving DecidableEq, Repr

/-- The value for one peripheral. -/
def PerPeriph.get {α : Type} (v : PerPeriph α) : Periph → α
  | .t16 => v.t16
  | .t8 => v.t8

/-- One value for each supported frequency. -/
structure PerFreq (α : Type) where
  ref : α
  alt : α
deriving DecidableEq, Repr

/-- The value for one frequency. -/
def PerFreq.get {α : Type} (v : PerFreq α) : Freq → α
  | .ref => v.ref
  | .alt => v.alt

/-- One value for each nonzero clock-select code. -/
structure PerCode (α : Type) where
  c1 : α
  c2 : α
  c3 : α
  c4 : α
  c5 : α
  c6 : α
  c7 : α
deriving DecidableEq, Repr

/-- The value for one code. -/
def PerCode.get {α : Type} (v : PerCode α) : CsCode → α
  | .c1 => v.c1 | .c2 => v.c2 | .c3 => v.c3 | .c4 => v.c4 | .c5 => v.c5 | .c6 => v.c6 | .c7 => v.c7

/-- The model's parameters (00_scope.md R9). OutMax and OutMin are no field: decision D11 fixes them
(Machine/Constants.lean). -/
structure Config where
  /-- F_CPU. -/
  fCpu : Freq
  /-- HAS_TIMER_HW. -/
  hasTimerHw : Bool
  /-- F_REF_HZ and F_ALT_HZ, positive integers; timing only (70_reset_and_hazards.md R290). -/
  freqHz : PerFreq PNat
  /-- CONV16_ORDER. -/
  convOrder : ConvOrder
  /-- CS_START(P, f): the clock-select code START writes. -/
  csStart : PerPeriph (PerFreq CsCode)
  /-- CS_VALID(P): the codes modelled as running. -/
  csValid : PerPeriph (List CsCode)
  /-- PRESC(P, code): the prescaler divisor; timing only. -/
  presc : PerPeriph (PerCode PNat)
  /-- REFRESH_VALUE(P). -/
  refreshSel : PerPeriph RefreshSel
deriving DecidableEq, Repr

/-! ### Free values -/

/-- `Config.draw w k`: the k-th draw of the run at width w (00_scope.md R13 `draw(N)`): unconstrained. -/
opaque Config.draw (w : Nat) : Nat → BitVec w

/-- The k-th free choice among several agents with an enabled step (20_memory.md R79): unconstrained. -/
opaque Config.freeChoice : Nat → Nat

/-- CS_START(P, f) of the part, OPEN (92_eei_decisions.md D9). -/
opaque Config.openCsStart : Periph → Freq → CsCode

/-- PRESC(P, code) of the part, OPEN (92_eei_decisions.md D9). -/
opaque Config.openPresc : Periph → CsCode → PNat

/-- F_REF_HZ and F_ALT_HZ of the part, OPEN (92_eei_decisions.md D10). -/
opaque Config.openFreqHz : Freq → PNat

/-- The OPEN start codes of one peripheral, as data. -/
def Config.startCodes (p : Periph) : PerFreq CsCode :=
  ⟨Config.openCsStart p .ref, Config.openCsStart p .alt⟩

/-- The OPEN divisors of one peripheral, as data. -/
def Config.divisors (p : Periph) : PerCode PNat :=
  ⟨Config.openPresc p .c1, Config.openPresc p .c2, Config.openPresc p .c3, Config.openPresc p .c4,
    Config.openPresc p .c5, Config.openPresc p .c6, Config.openPresc p .c7⟩

/-- A configuration in which every parameter with a default has it (00_scope.md R9) and every OPEN parameter is a free
value; F_CPU and HAS_TIMER_HW, which have no default, are arguments. -/
def Config.withDefaults (f : Freq) (hw : Bool) : Config where
  fCpu := f
  hasTimerHw := hw
  freqHz := ⟨Config.openFreqHz .ref, Config.openFreqHz .alt⟩
  convOrder := .scaleFirst
  csStart := ⟨Config.startCodes .t16, Config.startCodes .t8⟩
  csValid := ⟨[Config.openCsStart .t16 .ref, Config.openCsStart .t16 .alt],
    [Config.openCsStart .t8 .ref, Config.openCsStart .t8 .alt]⟩
  presc := ⟨Config.divisors .t16, Config.divisors .t8⟩
  refreshSel := ⟨.max, .max⟩

/-- The configuration of `State.reset`. DESIGN CHOICE (log entry 2): F_CPU = REF and HAS_TIMER_HW = true, the convention
of 95_test_vectors.md; no statement about every state rests on it. -/
def Config.base : Config := Config.withDefaults .ref true

end Sys2Proof
end

