-- ==== Sys2Proof/Machine/Constants.lean ====
section
/-! DEFINITION. The source's constants (00_scope.md R8) and the Peripheral Configuration constants computed from them
(10_state.md R49 to R51, 92_eei_decisions.md D11). -/

namespace Sys2Proof.Machine

/-- OutMaxNanos (00_scope.md R8). -/
def outMaxNanos : Nat := 2000000

/-- OutMinNanos (00_scope.md R8). -/
def outMinNanos : Nat := 1000000

/-- OutRangeNanos (00_scope.md R8). -/
def outRangeNanos : Nat := outMaxNanos - outMinNanos

/-- OutMaxMicros (00_scope.md R8). -/
def outMaxMicros : Nat := outMaxNanos / 1000

/-- OutMinMicros (00_scope.md R8). -/
def outMinMicros : Nat := outMinNanos / 1000

/-- OutRangeMicros (00_scope.md R8). -/
def outRangeMicros : Nat := outRangeNanos / 1000

/-- TargetPeriod(P), in timing units (00_scope.md R8). -/
def targetPeriod : Periph → Nat
  | .t16 => 2000
  | .t8 => 2008

/-- FullPeriod(P, f), halved on T16 at the alternate frequency (00_scope.md R8). -/
def fullPeriod : Periph → Freq → Nat
  | .t16, .ref => 4096
  | .t16, .alt => 2048
  | .t8, _ => 2048

/-- OutMax(P, f) = (2^W(P) × TargetPeriod(P)) div FullPeriod(P, f) (10_state.md R49). -/
def outMax (p : Periph) (f : Freq) : Nat := 2 ^ p.width * targetPeriod p / fullPeriod p f

/-- OutMin(P, f) = OutMax div 2 (10_state.md R49). -/
def outMin (p : Periph) (f : Freq) : Nat := outMax p f / 2

/-- OutRange(P, f) = OutMax − OutMin (10_state.md R49). -/
def outRange (p : Periph) (f : Freq) : Nat := outMax p f - outMin p f

/-- CTRLA_RUN: COMA_EN = COMB_EN = PWM = 1 (10_state.md R33). -/
def ctrlARun : Byte := 0x07

end Sys2Proof.Machine
end

