-- ==== Sys2Proof/Decode.lean ====
section
/-! DEFINITION. The command encoding (30_encoding.md R90 to R99): the field layout, the opcode map, the decoder, total on
every 64-bit word and naming the cause of each rejection, the encoder, and the (match, mask) table. -/

namespace Sys2Proof

/-! ### Register space -/

/-- MAX(P) = 2^W(P) − 1 (00_scope.md R7). -/
def Periph.max (p : Periph) : Nat := 2 ^ p.width - 1

/-- The index of a register in the SEL field (10_state.md R31). -/
def Reg.index : Reg → BitVec 4
  | .ctrlA => 0
  | .ctrlB => 1
  | .cnt => 2
  | .per => 3
  | .cmpA => 4
  | .cmpB => 5
  | .imsk => 6
  | .iflg => 7
  | .dir => 8
  | .clken => 9

/-- The register an index names; 10..15 are reserved (10_state.md R31). -/
def Reg.ofIndex (sel : BitVec 4) : Option Reg :=
  match sel.toNat with
  | 0 => some .ctrlA
  | 1 => some .ctrlB
  | 2 => some .cnt
  | 3 => some .per
  | 4 => some .cmpA
  | 5 => some .cmpB
  | 6 => some .imsk
  | 7 => some .iflg
  | 8 => some .dir
  | 9 => some .clken
  | _ => none

/-- Whether a peripheral has the register: T8 has no PER (10_state.md R29, R31). -/
def Reg.presentOn (p : Periph) (r : Reg) : Bool := !(p == .t8 && r == .per)

/-- widthmask(P, reg): the mask of a register's non-reserved bits (30_encoding.md R97). PER exists on T16 only; its row's
mask on T8 names no register and is 0. -/
def Reg.widthMask (p : Periph) : Reg → Operand
  | .ctrlA => 0x07
  | .ctrlB => 0x07
  | .cnt => BitVec.ofNat 32 p.max
  | .per => match p with
    | .t16 => 0xFFFF
    | .t8 => 0
  | .cmpA => BitVec.ofNat 32 p.max
  | .cmpB => BitVec.ofNat 32 p.max
  | .imsk => 0x03
  | .iflg => 0x03
  | .dir => 0x03
  | .clken => 0x01

/-- Whether a value fits the register: no bit outside its widthmask (30_encoding.md R97). -/
def Reg.fits (p : Periph) (r : Reg) (v : Operand) : Bool := v &&& ~~~(r.widthMask p) == 0

/-! ### Fields -/

/-- The fields of a command word (30_encoding.md R91). -/
structure Fields where
  opc : BitVec 4
  p : BitVec 1
  rsv1 : BitVec 3
  sel : BitVec 4
  rsv2 : BitVec 20
  imm : Operand
deriving DecidableEq, Repr

/-- The fields of a word: OPC 63:60, P 59, RSV1 58:56, SEL 55:52, RSV2 51:32, IMM 31:0 (30_encoding.md R91). -/
def Fields.ofWord (w : Word) : Fields where
  opc := w.extractLsb' 60 4
  p := w.extractLsb' 59 1
  rsv1 := w.extractLsb' 56 3
  sel := w.extractLsb' 52 4
  rsv2 := w.extractLsb' 32 20
  imm := w.extractLsb' 0 32

/-- The word of the fields, the first in the high bits (30_encoding.md R91). -/
def Fields.toWord (f : Fields) : Word :=
  f.opc ++ f.p ++ f.rsv1 ++ f.sel ++ f.rsv2 ++ f.imm

/-- The peripheral of the P bit: 0 = T16, 1 = T8 (30_encoding.md R91). -/
def Periph.ofBit (b : BitVec 1) : Periph := if b = 0 then .t16 else .t8

/-- The P bit of a peripheral. -/
def Periph.toBit : Periph → BitVec 1
  | .t16 => 0
  | .t8 => 1

/-! ### Opcode map -/

/-- The mnemonics of the opcode table (30_encoding.md R96). -/
inductive Op where
  | limit | bit | conv | caps | wr | rd | prepare | start | pulse | pulseA | pulseB | stop
deriving DecidableEq, Repr

/-- The OPC value of a mnemonic (30_encoding.md R96). -/
def Op.code : Op → BitVec 4
  | .limit => 0x1
  | .bit => 0x2
  | .conv => 0x3
  | .caps => 0x4
  | .wr => 0x5
  | .rd => 0x6
  | .prepare => 0x7
  | .start => 0x8
  | .pulse => 0x9
  | .pulseA => 0xA
  | .pulseB => 0xB
  | .stop => 0xC

/-- The mnemonic of an OPC value; 0x0 and 0xD..0xF are reserved (30_encoding.md R96, R99). -/
def Op.ofCode (c : BitVec 4) : Option Op :=
  match c.toNat with
  | 0x1 => some .limit
  | 0x2 => some .bit
  | 0x3 => some .conv
  | 0x4 => some .caps
  | 0x5 => some .wr
  | 0x6 => some .rd
  | 0x7 => some .prepare
  | 0x8 => some .start
  | 0x9 => some .pulse
  | 0xA => some .pulseA
  | 0xB => some .pulseB
  | 0xC => some .stop
  | _ => none

/-- The mnemonic of a command. -/
def Instr.op : Instr → Op
  | .limit _ => .limit
  | .bit _ => .bit
  | .conv _ _ _ => .conv
  | .caps => .caps
  | .wr _ _ _ => .wr
  | .rd _ _ => .rd
  | .prepare _ => .prepare
  | .start _ => .start
  | .pulse _ _ _ => .pulse
  | .pulseA _ _ => .pulseA
  | .pulseB _ _ => .pulseB
  | .stop _ => .stop

/-! ### Decoder -/

/-- Why a word is no command: the causes of 60_exceptions.md R242, as the decoder meets them. The cause is a name for the
reader; the FAULT record does not hold it (log entry 17). -/
inductive IllegalCause where
  /-- RSV1 or RSV2 nonzero (30_encoding.md R92). -/
  | reservedField
  /-- OPC 0x0 or 0xD..0xF (30_encoding.md R99). -/
  | reservedOpcode
  /-- P = 1 on LIMIT, BIT or CAPS (30_encoding.md R93). -/
  | periphNotZero
  /-- SEL nonzero where it must be 0 (30_encoding.md R94). -/
  | selNotZero
  /-- SEL names no register of P (10_state.md R31). -/
  | noSuchRegister
  /-- A WR value outside the register's widthmask (30_encoding.md R97). -/
  | valueOutsideMask
  /-- IMM nonzero where it must be 0 (30_encoding.md R95). -/
  | immNotZero
  /-- A PULSE, PULSEA or PULSEB operand wider than W(P) (30_encoding.md R95). -/
  | operandTooWide
deriving DecidableEq, Repr

/-- The decoder's answer (30_encoding.md R98). -/
inductive Verdict where
  | cmd (i : Instr)
  | illegal (why : IllegalCause)
deriving DecidableEq, Repr

/-- Go on if the constraint holds; else the word is illegal. -/
def Verdict.need (ok : Bool) (why : IllegalCause) (k : Verdict) : Verdict :=
  if ok then k else .illegal why

/-- The constraints and operands of each mnemonic (30_encoding.md R93 to R95, R97). -/
def decodeOperands (op : Op) (f : Fields) : Verdict :=
  let p := Periph.ofBit f.p
  match op with
  | .limit => .need (f.p == 0) .periphNotZero <| .need (f.sel == 0) .selNotZero <| .cmd (.limit f.imm)
  | .bit => .need (f.p == 0) .periphNotZero <| .need (f.imm == 0) .immNotZero <| .cmd (.bit f.sel)
  | .conv => .need (p == .t16 || f.sel == 0) .selNotZero <| .cmd (.conv p f.sel f.imm)
  | .caps =>
    .need (f.p == 0) .periphNotZero <| .need (f.sel == 0) .selNotZero <| .need (f.imm == 0) .immNotZero <| .cmd .caps
  | .wr =>
    match Reg.ofIndex f.sel with
    | none => .illegal .noSuchRegister
    | some r =>
      .need (r.presentOn p) .noSuchRegister <| .need (r.fits p f.imm) .valueOutsideMask <| .cmd (.wr p r f.imm)
  | .rd =>
    match Reg.ofIndex f.sel with
    | none => .illegal .noSuchRegister
    | some r => .need (r.presentOn p) .noSuchRegister <| .need (f.imm == 0) .immNotZero <| .cmd (.rd p r)
  | .prepare => .need (f.sel == 0) .selNotZero <| .need (f.imm == 0) .immNotZero <| .cmd (.prepare p)
  | .start => .need (f.sel == 0) .selNotZero <| .need (f.imm == 0) .immNotZero <| .cmd (.start p)
  | .pulse =>
    .need (f.sel == 0) .selNotZero <|
      .need (p == .t16 || f.imm &&& 0xFF00FF00 == 0) .operandTooWide <|
        .cmd (.pulse p (f.imm.extractLsb' 0 16) (f.imm.extractLsb' 16 16))
  | .pulseA =>
    .need (f.sel == 0) .selNotZero <| .need (decide (f.imm.toNat ≤ p.max)) .operandTooWide <| .cmd (.pulseA p f.imm)
  | .pulseB =>
    .need (f.sel == 0) .selNotZero <| .need (decide (f.imm.toNat ≤ p.max)) .operandTooWide <| .cmd (.pulseB p f.imm)
  | .stop => .need (f.sel == 0) .selNotZero <| .need (f.imm == 0) .immNotZero <| .cmd (.stop p)

/-- The decoder on fields: the reserved fields, the opcode, then its row's constraints (30_encoding.md R98). -/
def decodeFields (f : Fields) : Verdict :=
  .need (f.rsv1 == 0 && f.rsv2 == 0) .reservedField <|
    match Op.ofCode f.opc with
    | none => .illegal .reservedOpcode
    | some op => decodeOperands op f

/-- `decode(w)` of 30_encoding.md R98: total on every 64-bit word, reading no state. -/
def decode (w : Word) : Verdict := decodeFields (Fields.ofWord w)

/-! ### Encoder -/

/-- The fields of a command (30_encoding.md R91 to R96). -/
def encodeFields (i : Instr) : Fields :=
  let blank : Fields := { opc := i.op.code, p := 0, rsv1 := 0, sel := 0, rsv2 := 0, imm := 0 }
  match i with
  | .limit n => { blank with imm := n }
  | .bit s => { blank with sel := s }
  | .conv p c n => { blank with p := p.toBit, sel := c, imm := n }
  | .caps => blank
  | .wr p r v => { blank with p := p.toBit, sel := r.index, imm := v }
  | .rd p r => { blank with p := p.toBit, sel := r.index }
  | .prepare p => { blank with p := p.toBit }
  | .start p => { blank with p := p.toBit }
  | .pulse p a b => { blank with p := p.toBit, imm := b ++ a }
  | .pulseA p v => { blank with p := p.toBit, imm := v }
  | .pulseB p v => { blank with p := p.toBit, imm := v }
  | .stop p => { blank with p := p.toBit }

/-- The word of a command. -/
def encode (i : Instr) : Word := (encodeFields i).toWord

/-! ### The (match, mask) table -/

/-- match(m) (30_encoding.md R97). -/
def Op.matchBits : Op → Word
  | .limit => 0x1000000000000000
  | .bit => 0x2000000000000000
  | .conv => 0x3000000000000000
  | .caps => 0x4000000000000000
  | .wr => 0x5000000000000000
  | .rd => 0x6000000000000000
  | .prepare => 0x7000000000000000
  | .start => 0x8000000000000000
  | .pulse => 0x9000000000000000
  | .pulseA => 0xA000000000000000
  | .pulseB => 0xB000000000000000
  | .stop => 0xC000000000000000

/-- mask(m) (30_encoding.md R97). -/
def Op.maskBits : Op → Word
  | .limit => 0xFFFFFFFF00000000
  | .bit => 0xFF0FFFFFFFFFFFFF
  | .conv => 0xF70FFFFF00000000
  | .caps => 0xFFFFFFFFFFFFFFFF
  | .wr => 0xF70FFFFF00000000
  | .rd => 0xF70FFFFFFFFFFFFF
  | .prepare => 0xF7FFFFFFFFFFFFFF
  | .start => 0xF7FFFFFFFFFFFFFF
  | .pulse => 0xF7FFFFFF00000000
  | .pulseA => 0xF7FFFFFF00000000
  | .pulseB => 0xF7FFFFFF00000000
  | .stop => 0xF7FFFFFFFFFFFFFF

/-- The "further constraints" column of 30_encoding.md R97. -/
def Op.constraints (op : Op) (p : Periph) (sel : BitVec 4) (imm : Operand) : Bool :=
  match op with
  | .conv => p == .t16 || sel == 0
  | .wr => match Reg.ofIndex sel with
    | none => false
    | some r => r.presentOn p && r.fits p imm
  | .rd => match Reg.ofIndex sel with
    | none => false
    | some r => r.presentOn p
  | .pulse => p == .t16 || imm &&& 0xFF00FF00 == 0
  | .pulseA => decide (imm.toNat ≤ p.max)
  | .pulseB => decide (imm.toNat ≤ p.max)
  | _ => true

/-- Whether a word is in a row of the table: its (match, mask) pair and its further constraints (30_encoding.md R97). -/
def Op.rowAccepts (op : Op) (w : Word) : Bool :=
  w &&& op.maskBits == op.matchBits &&
    op.constraints (Periph.ofBit (Fields.ofWord w).p) (Fields.ofWord w).sel (Fields.ofWord w).imm

/-! ### The host's question -/

/-- The command read from an instruction whose bits are `w`, numbered as spec/opcode_table.json numbers them; every row
has 64 bits, one whole command word (30_encoding.md R90), and a shorter `nbits` leaves the bits above it zero. -/
def tableWord (nbits w : Nat) : Word := BitVec.ofNat 64 (w % 2 ^ nbits)

def decodeTableWord (nbits w : Nat) : Option Instr :=
  match decode (tableWord nbits w) with
  | .cmd i => some i
  | .illegal _ => none

end Sys2Proof
end

