-- ==== Sys2Proof/Machine/State.lean ====
section
/-! DEFINITION. The machine's state (10_state.md R22 to R48), plain data: the architectural tuple of R22, the configuration
and the program it runs under (R21), and the model's own counters for draws and interleaving. -/

namespace Sys2Proof.Machine

/-- The agents, each taking atomic steps (10_state.md R20). -/
inductive Agent where
  | controller
  | counter (p : Periph)
  | refresh (p : Periph) (x : Channel)
deriving DecidableEq, Repr

/-- The fault codes (60_exceptions.md R241). -/
inductive FaultCode where
  | illegalCommand
  | unavailable
  | hazardRunningWrite
  | unmodelledMode
deriving DecidableEq, Repr

/-- The record FAULT holds (10_state.md R27, 60_exceptions.md R247). -/
structure FaultRecord where
  code : FaultCode
  pc : Nat
  /-- The faulting command word; none for a tick fault. -/
  word : Option Word
  agent : Agent
deriving DecidableEq, Repr

/-- The refusal reasons of the chip's model (60_exceptions.md R246): the only one is PULSE_RANGE. -/
inductive RefusalReason where
  | pulseRange
deriving DecidableEq, Repr

/-- What REFUSED is set together with (60_exceptions.md R246). -/
structure RefusalRecord where
  reason : RefusalReason
  pc : Nat
  word : Word
deriving DecidableEq, Repr

/-- The response register (10_state.md R23). -/
structure Resp where
  value : Operand
  status : Byte
deriving DecidableEq, Repr

/-- A micro-step of a composite command (43_timer_operations.md R180). -/
inductive MicroStep where
  /-- W(reg, v) on peripheral P. -/
  | w (p : Periph) (r : Reg) (v : Operand)
  /-- DIROR(m) on peripheral P. -/
  | dirOr (p : Periph) (m : Byte)
deriving DecidableEq, Repr

/-- The registers of one peripheral that both have (10_state.md R29), at counter width `w`, and its two output latches
(10_state.md R43). PER, which T16 alone has, is the field `per` of State. -/
structure Timer (w : Nat) where
  ctrlA : Byte
  ctrlB : Byte
  cnt : BitVec w
  cmpA : BitVec w
  cmpB : BitVec w
  imsk : Byte
  iflg : Byte
  dir : Byte
  clken : Byte
  ocA : Bool
  ocB : Bool
deriving DecidableEq, Repr

/-- The state of the machine. -/
structure State where
  /-- Configuration, fixed before reset (10_state.md R21). -/
  cfg : Config
  /-- The host's program, fixed before reset (10_state.md R21, R46). -/
  program : List Word
  /-- The index of the command being executed (10_state.md R25). -/
  pc : Nat
  /-- µq, the pending micro-steps, the next one first (10_state.md R26). -/
  uq : List MicroStep
  /-- RESP (10_state.md R23). -/
  resp : Resp
  /-- FAULT (10_state.md R27). -/
  fault : Option FaultRecord
  /-- REFUSED, with its reason (10_state.md R27). -/
  refused : Option RefusalRecord
  /-- The registers and latches of T16 but PER. -/
  t16 : Timer 16
  /-- PER of T16 (10_state.md R37). -/
  per : BitVec 16
  /-- The registers and latches of T8. -/
  t8 : Timer 8
  /-- The model's own: how many draws have been made (log entry 5). -/
  draws : Nat
  /-- The model's own: the interleaving still to come (log entry 6). -/
  sched : List Agent
  /-- The model's own: how many free choices of an agent have been made (log entry 6). -/
  turn : Nat
deriving DecidableEq, Repr

/-- Why a step stops with a fault of the model. The chip's own faults are NEXT states with FAULT written (log entry 8). -/
inductive Fault where
  /-- Raised by `step` when FAULT ≠ none: no agent has an enabled step (60_exceptions.md R248). Safe: the spec gives such a
  state no step. -/
  | halted (code : FaultCode)
  /-- Raised by `step` when no agent has an enabled step although FAULT = none and REFUSED = false: the program has ended
  (70_reset_and_hazards.md R292) and neither a counter nor a refresh unit is enabled (log entry 7). Safe: the spec gives
  such a state no step. -/
  | noEnabledStep
deriving DecidableEq, Repr

/-- Why a step is refused. -/
inductive Refusal where
  /-- Raised by an arm of `exec` whose instruction has no meaning yet. Safe. No arm raises it. -/
  | notModelled (mnemonic : String)
  /-- Raised by `step` when REFUSED is set: no agent has an enabled step (60_exceptions.md R248). Safe: the spec gives such a
  state no step. -/
  | halted (reason : RefusalReason)
deriving DecidableEq, Repr

/-- The reset values of one peripheral (10_state.md R47), its six draws the k-th and following of the run (log entry 4). -/
def Timer.reset (w k : Nat) : Timer w where
  ctrlA := 0
  ctrlB := 0
  cnt := Config.draw w k
  cmpA := Config.draw w (k + 1)
  cmpB := Config.draw w (k + 2)
  imsk := 0
  iflg := 0
  dir := 0
  clken := (Config.draw 1 (k + 3)).setWidth 8
  ocA := (Config.draw 1 (k + 4)).getLsbD 0
  ocB := (Config.draw 1 (k + 5)).getLsbD 0

/-- The state right after reset under a configuration and a program (10_state.md R47, R48; 70_reset_and_hazards.md R280 to
R282). -/
def State.launch (cfg : Config) (program : List Word) : State where
  cfg := cfg
  program := program
  pc := 0
  uq := []
  resp := ⟨0, 0⟩
  fault := none
  refused := none
  t16 := Timer.reset 16 0
  per := Config.draw 16 6
  t8 := Timer.reset 8 7
  draws := 13
  sched := []
  turn := 0

/-- The state right after reset, with no program loaded (log entries 1 and 2). -/
def State.reset : State := State.launch Config.base []

end Sys2Proof.Machine
end

