-- ==== Sys2Proof/Machine/Flags.lean ====
section
/-! DEFINITION. The status bits of the block: RESP.status (10_state.md R24), the compare-match flags IFLG (R40), and the bit
fields of the control registers (R32 to R42). The block has no condition codes (R28). -/

namespace Sys2Proof

/-- The bit of a channel in CTRLA (COMx_EN), IMSK, IFLG and DIR: bit 0 for A, bit 1 for B (10_state.md R32, R39 to R41). -/
def Channel.bitNo : Channel → Nat
  | .a => 0
  | .b => 1

/-- The mask of a channel's bit. -/
def Channel.mask (x : Channel) : Byte := 1 <<< x.bitNo

/-- A Boolean as a flag bit of a channel. -/
def Channel.flag (x : Channel) (on : Bool) : Byte := if on then x.mask else 0

end Sys2Proof

namespace Sys2Proof.Machine

/-- RESP.status OK (10_state.md R24). -/
def statusOk : Byte := 0

/-- RESP.status UNSUPPORTED_FREQ (10_state.md R24). -/
def statusUnsupportedFreq : Byte := 1

/-- The number of a fault code (60_exceptions.md R241). -/
def FaultCode.number : FaultCode → Nat
  | .illegalCommand => 1
  | .unavailable => 2
  | .hazardRunningWrite => 3
  | .unmodelledMode => 4

/-- Write-one-to-clear: each bit written 1 clears that flag, each bit written 0 leaves it (10_state.md R40, 42 R161). -/
def clearFlags (iflg v : Byte) : Byte := iflg &&& ~~~v &&& 0x03

section
variable {w : Nat} (t : Timer w)

/-- CTRLA.COMx_EN (10_state.md R32). -/
def Timer.comEn (x : Channel) : Bool := t.ctrlA.getLsbD x.bitNo

/-- CTRLA.PWM (10_state.md R32). -/
def Timer.pwm : Bool := t.ctrlA.getLsbD 2

/-- CTRLB.CS, bits 2:0 (10_state.md R34). -/
def Timer.cs : Nat := (t.ctrlB.extractLsb' 0 3).toNat

/-- IMSK.IEx (10_state.md R39). -/
def Timer.ie (x : Channel) : Bool := t.imsk.getLsbD x.bitNo

/-- IFLG.IFx (10_state.md R40). -/
def Timer.ifl (x : Channel) : Bool := t.iflg.getLsbD x.bitNo

/-- DIR.DIRx (10_state.md R41). -/
def Timer.dirBit (x : Channel) : Bool := t.dir.getLsbD x.bitNo

/-- CLKEN.EN (10_state.md R42). -/
def Timer.en : Bool := t.clken.getLsbD 0

/-- OC(P, x) (10_state.md R43). -/
def Timer.oc : Channel → Bool
  | .a => t.ocA
  | .b => t.ocB

/-- CMPx (10_state.md R38). -/
def Timer.cmp : Channel → BitVec w
  | .a => t.cmpA
  | .b => t.cmpB

/-- CMPx <- v. -/
def Timer.setCmp (x : Channel) (v : BitVec w) : Timer w :=
  match x with
  | .a => { t with cmpA := v }
  | .b => { t with cmpB := v }

/-- The compare-match interrupt of channel x is pending exactly when IFx = 1 and IEx = 1 (10_state.md R44). -/
def Timer.pending (x : Channel) : Bool := t.ifl x && t.ie x

end

end Sys2Proof.Machine
end

