-- ==== Sys2Proof/Machine/Operands.lean ====
section
/-! DEFINITION. How a command's operands become values: the clamp, the bit mask, the frequency code, the two scalings of
the converter, the inversion and the range of a raw value (40_shared_contract.md, 41_converter.md, 43_timer_operations.md
R188, R189). -/

namespace Sys2Proof.Machine

/-- `uN(e)`: e modulo 2^N (00_scope.md R12). -/
def uN (n e : Nat) : Nat := e % 2 ^ n

/-- The clamp of LIMIT (40_shared_contract.md R121). -/
def limitNanos (nanos : Nat) : Nat :=
  if nanos < outMinNanos then outMinNanos
  else if nanos > outMaxNanos then outMaxNanos
  else nanos

/-- The single-bit mask of BIT (40_shared_contract.md R123). -/
def bitMask (shift : Nat) : Nat := uN 16 (1 <<< shift)

/-- The frequency a CONV code names: 0 = REF, 1 = ALT, 2..15 unsupported (30_encoding.md R94, 41_converter.md R141). -/
def freqOfCode (code : BitVec 4) : Option Freq :=
  match code.toNat with
  | 0 => some .ref
  | 1 => some .alt
  | _ => none

/-- Whether a duration is in [OutMinNanos, OutMaxNanos] (41_converter.md R141, R144). -/
def inNanosRange (nanos : Nat) : Bool := decide (outMinNanos ≤ nanos) && decide (nanos ≤ outMaxNanos)

/-- `scale16(f, nanos)` (41_converter.md R142). The difference is taken on naturals: on the range R142 gives it for, it is
not negative. -/
def scale16 (order : ConvOrder) (f : Freq) (nanos : Nat) : Nat :=
  let x := uN 32 (nanos - outMinNanos)
  let r := outRange .t16 f
  let q := match order with
    | .scaleFirst => uN 32 (uN 32 (x * (r / 10)) / (outRangeNanos / 10))
    | .inputFirst => uN 32 (uN 32 (x / 10 * r) / (outRangeNanos / 10))
  uN 16 (outMin .t16 f + q)

/-- The scaling of `conv8(nanos)`; T8's constants are the same at either frequency (41_converter.md R144). -/
def scale8 (nanos : Nat) : Nat :=
  let x := uN 32 (nanos - outMinNanos)
  let q := uN 32 (uN 32 (x * outRange .t8 .ref) / outRangeNanos)
  uN 8 (outMin .t8 .ref + q)

/-- inv(P, v) = u_W(P)(OutMax(P, f) − v) (43_timer_operations.md R188): the subtraction wraps at W(P) bits. -/
def inv (p : Periph) (f : Freq) (v : Nat) : BitVec p.width :=
  BitVec.ofNat p.width (outMax p f) - BitVec.ofNat p.width v

/-- Whether a pulsed value is at most OutMax(P, F_CPU) (43_timer_operations.md R181, R189). -/
def inPulseRange (p : Periph) (f : Freq) (v : Nat) : Bool := decide (v ≤ outMax p f)

/-- The value CAPS reads: F_CPU = ALT in bit 1, HAS_TIMER_HW in bit 0 (40_shared_contract.md R124). -/
def capsValue (cfg : Config) : Nat :=
  (if cfg.fCpu = .alt then 1 else 0) <<< 1 ||| (if cfg.hasTimerHw then 1 else 0)

/-- The value START writes into CTRLB: CS_START(P, F_CPU) (43_timer_operations.md R185). -/
def csStartValue (cfg : Config) (p : Periph) : Operand := BitVec.ofNat 32 ((cfg.csStart.get p).get cfg.fCpu).value

end Sys2Proof.Machine
end

