-- ==== Sys2Proof/WellFormed.lean ====
section
/-! DEFINITION. Which commands some word encodes: the operand constraints of 30_encoding.md R94, R95 and R97 on the
syntax. A command of another form is never the decoder's answer. -/

namespace Sys2Proof

/-- The constraints on a command's operands (30_encoding.md R94, R95, R97). -/
def Instr.wf : Instr → Bool
  | .limit _ => true
  | .bit _ => true
  | .conv p code _ => p == .t16 || code == 0
  | .caps => true
  | .wr p r v => r.presentOn p && r.fits p v
  | .rd p r => r.presentOn p
  | .prepare _ => true
  | .start _ => true
  | .pulse p a b => decide (a.toNat ≤ p.max) && decide (b.toNat ≤ p.max)
  | .pulseA p v => decide (v.toNat ≤ p.max)
  | .pulseB p v => decide (v.toNat ≤ p.max)
  | .stop _ => true

end Sys2Proof
end

