-- ==== Sys2Proof/Machine/Ops.lean ====
section
/-! DEFINITION. The shared operations over the state: the register accessors RegRead and RegWrite (00_scope.md R13), the
completion of a command (10_state.md R26), raising a fault and refusing a command (60_exceptions.md R246, R247), drawing a
value (00_scope.md R13), and the execution of micro-steps (43_timer_operations.md R180). -/

namespace Sys2Proof.Machine

/-! ### Peripherals -/

/-- The registers of peripheral P. -/
def State.timer (s : State) : (p : Periph) → Timer p.width
  | .t16 => s.t16
  | .t8 => s.t8

/-- Replace the registers of peripheral P. -/
def State.setTimer (s : State) : (p : Periph) → Timer p.width → State
  | .t16, t => { s with t16 := t }
  | .t8, t => { s with t8 := t }

/-- TOP(P): PER on T16, MAX on T8 (00_scope.md R10). -/
def State.top (s : State) : (p : Periph) → BitVec p.width
  | .t16 => s.per
  | .t8 => BitVec.allOnes 8

/-- The raw bits of a register, zero-extended; a register the peripheral has not (PER on T8) has none. -/
def State.regBits (s : State) (p : Periph) (r : Reg) : Operand :=
  let t := s.timer p
  match r with
  | .ctrlA => t.ctrlA.setWidth 32
  | .ctrlB => t.ctrlB.setWidth 32
  | .cnt => t.cnt.setWidth 32
  | .per => match p with
    | .t16 => s.per.setWidth 32
    | .t8 => 0
  | .cmpA => t.cmpA.setWidth 32
  | .cmpB => t.cmpB.setWidth 32
  | .imsk => t.imsk.setWidth 32
  | .iflg => t.iflg.setWidth 32
  | .dir => t.dir.setWidth 32
  | .clken => t.clken.setWidth 32

/-- RegRead(P, reg): the whole register, zero-extended to 32 bits; a reserved bit reads as 0 (10_state.md R30, 20_memory.md
R71, log entry 10). No side effect (42_register_access.md R164). -/
def State.readReg (s : State) (p : Periph) (r : Reg) : Operand := s.regBits p r &&& r.widthMask p

/-- `write_effect(P, reg, v)` (42_register_access.md R161): IFLG is write-one-to-clear, every other register takes the whole
value. The reserved bits of a register do not take one (10_state.md R30, log entry 10); PER on T8 is no register and takes
nothing (log entry 11). -/
def State.writeReg (s : State) (p : Periph) (r : Reg) (v : Operand) : State :=
  let t := s.timer p
  let byte : Byte := (v &&& r.widthMask p).setWidth 8
  match r with
  | .ctrlA => s.setTimer p { t with ctrlA := byte }
  | .ctrlB => s.setTimer p { t with ctrlB := byte }
  | .cnt => s.setTimer p { t with cnt := v.setWidth p.width }
  | .per => match p with
    | .t16 => { s with per := v.setWidth 16 }
    | .t8 => s
  | .cmpA => s.setTimer p { t with cmpA := v.setWidth p.width }
  | .cmpB => s.setTimer p { t with cmpB := v.setWidth p.width }
  | .imsk => s.setTimer p { t with imsk := byte }
  | .iflg => s.setTimer p { t with iflg := clearFlags t.iflg byte }
  | .dir => s.setTimer p { t with dir := byte }
  | .clken => s.setTimer p { t with clken := byte }

/-- `hazard_check(P, reg)` fails: a write to CTRLA or IFLG while CTRLB.CS ≠ 0 (42_register_access.md R162). -/
def State.hazard (s : State) (p : Periph) (r : Reg) : Bool :=
  (r == .ctrlA || r == .iflg) && (s.timer p).cs != 0

/-! ### Completion, faults, refusals, draws -/

/-- RESP <- r; pc <- pc + 1 (10_state.md R26). -/
def State.complete (s : State) (r : Resp) : State := { s with resp := r, pc := s.pc + 1 }

/-- `raise Fault(code, info)`: FAULT <- (code, pc, word, agent), and no other change (60_exceptions.md R247). -/
def State.raiseFault (s : State) (code : FaultCode) (word : Option Word) (agent : Agent) : State :=
  { s with fault := some ⟨code, s.pc, word, agent⟩ }

/-- `refuse(reason)`: REFUSED is set with the reason, the pc and the word, and nothing else changes (60_exceptions.md
R246). -/
def State.refuse (s : State) (reason : RefusalReason) (word : Word) : State :=
  { s with refused := some ⟨reason, s.pc, word⟩ }

/-- The next draw(w) of the run, a free value (00_scope.md R13, log entry 5). -/
def State.drawn (s : State) (w : Nat) : BitVec w := Config.draw w s.draws

/-- The state after a draw was made. -/
def State.afterDraw (s : State) : State := { s with draws := s.draws + 1 }

/-- The word at pc, if pc is below the program's length (10_state.md R25). -/
def State.fetch (s : State) : Option Word := s.program[s.pc]?

/-- µq <- q. -/
def State.setQueue (s : State) (q : List MicroStep) : State := { s with uq := q }

/-- The interleaving still to come, and the count of free choices (log entry 6). -/
def State.setSchedule (s : State) (sc : List Agent) (n : Nat) : State := { s with sched := sc, turn := n }

/-! ### Micro-steps -/

/-- Whether a micro-step's hazard check fails (43_timer_operations.md R180). -/
def MicroStep.hazard (m : MicroStep) (s : State) : Bool :=
  match m with
  | .w p r _ => s.hazard p r
  | .dirOr _ _ => false

/-- The effect of a micro-step on the registers (43_timer_operations.md R180). -/
def MicroStep.effect (m : MicroStep) (s : State) : State :=
  match m with
  | .w p r v => s.writeReg p r v
  | .dirOr p m => s.writeReg p .dir (((s.timer p).dir ||| m).setWidth 32)

/-- Execute the first of the pending micro-steps `q`; the rest stays in µq, and the last one also completes the command with
RESP <- (0, OK) (10_state.md R26, 43_timer_operations.md R180). -/
def State.runMicro (s : State) (word : Option Word) (q : List MicroStep) : State :=
  match q with
  | [] => s
  | m :: rest =>
    if m.hazard s then s.raiseFault .hazardRunningWrite word .controller
    else
      let s' := (m.effect s).setQueue rest
      if rest.isEmpty then s'.complete ⟨0, statusOk⟩ else s'

/-! ### Checks of a command -/

/-- The decoder's check: a command no word encodes raises ILLEGAL_COMMAND before anything else (60_exceptions.md R249). No
decoded word reaches the first case (30_encoding.md R98, log entry 11). -/
def State.legal (s : State) (i : Instr) (run : State) : State :=
  if i.wf = false then s.raiseFault .illegalCommand (some (encode i)) .controller else run

/-- The checks of a command that touches registers, in the order of 60_exceptions.md R249: ILLEGAL_COMMAND, UNAVAILABLE
without the timer hardware, then the refusal PULSE_RANGE of a pulsed value above OutMax (42_register_access.md R165,
43_timer_operations.md R181); if none arises, the command runs. -/
def State.checked (s : State) (i : Instr) (p : Periph) (pulsed : List Nat) (run : State) : State :=
  s.legal i <|
    if s.cfg.hasTimerHw = false then s.raiseFault .unavailable (some (encode i)) .controller
    else if pulsed.all (inPulseRange p s.cfg.fCpu) = false then s.refuse .pulseRange (encode i)
    else run

end Sys2Proof.Machine
end

