-- ==== Sys2Proof/Machine/Counter.lean ====
section
/-! DEFINITION. The counter agent: when it is enabled, and one tick (44_counter_waveform.md R210 to R216). -/

namespace Sys2Proof.Machine

/-- The latch of a channel after a tick: while COMx_EN = 1 a wrap clears it, else a match sets it; while COMx_EN = 0 it holds
(44_counter_waveform.md R216). -/
def latchAfter (comEn wrap hit oc : Bool) : Bool :=
  if comEn then (if wrap then false else if hit then true else oc) else oc

section
variable {w : Nat}

/-- Whether a tick wraps: the count it starts from is TOP or MAX (44_counter_waveform.md R213). -/
def Timer.wraps (t : Timer w) (top : BitVec w) : Bool := t.cnt == top || t.cnt == BitVec.allOnes w

/-- Whether channel x matches on a tick: the count equals CMPx and is at most TOP (44_counter_waveform.md R214). -/
def Timer.hits (t : Timer w) (top : BitVec w) (x : Channel) : Bool := decide (t.cnt ≤ top) && t.cnt == t.cmp x

/-- `tick(P)`, with TOP read at the start of the step (44_counter_waveform.md R212). -/
def Timer.tick (t : Timer w) (top : BitVec w) : Timer w :=
  let hitA := t.hits top .a
  let hitB := t.hits top .b
  let wrap := t.wraps top
  { t with
    cnt := if wrap then 0 else t.cnt + 1
    iflg := t.iflg ||| Channel.flag .a hitA ||| Channel.flag .b hitB
    ocA := latchAfter (t.comEn .a) wrap hitA t.ocA
    ocB := latchAfter (t.comEn .b) wrap hitB t.ocB }

end

/-- Whether counter(P) ticks in a mode the source describes: CTRLB.CS ∈ CS_VALID(P) and CTRLA.PWM = 1
(44_counter_waveform.md R211). -/
def State.modelledMode (s : State) (p : Periph) : Bool :=
  (s.cfg.csValid.get p).any (fun c => c.value == (s.timer p).cs) && (s.timer p).pwm

/-- The step of counter(P): a tick, or the fault UNMODELLED_MODE in any other mode (44_counter_waveform.md R211, R212). -/
def State.counterStep (s : State) (p : Periph) : State :=
  if s.modelledMode p then s.setTimer p ((s.timer p).tick (s.top p))
  else s.raiseFault .unmodelledMode none (.counter p)

end Sys2Proof.Machine
end

