-- ==== Sys2Proof/Machine/Access.lean ====
section
/-! DEFINITION. Register access: WR and RD (42_register_access.md). -/

namespace Sys2Proof.Machine

/-- WR: write one register, after the checks in the order ILLEGAL_COMMAND, UNAVAILABLE, HAZARD_RUNNING_WRITE
(42_register_access.md R160). -/
def execWr (p : Periph) (r : Reg) (value : Operand) (s : State) : Host.Outcome State Fault Refusal :=
  .next <| s.checked (.wr p r value) p [] <|
    if s.hazard p r then s.raiseFault .hazardRunningWrite (some (encode (.wr p r value))) .controller
    else (s.writeReg p r value).complete ⟨0, statusOk⟩

/-- RD: read one register (42_register_access.md R163). -/
def execRd (p : Periph) (r : Reg) (s : State) : Host.Outcome State Fault Refusal :=
  .next <| s.checked (.rd p r) p [] <| s.complete ⟨s.readReg p r, statusOk⟩

end Sys2Proof.Machine
end

