-- ==== Sys2Proof/Machine/Contract.lean ====
section
/-! DEFINITION. The shared timing contract: LIMIT, BIT and CAPS (40_shared_contract.md). They are pure: they read their
operands and the configuration, and write RESP and pc (R120). -/

namespace Sys2Proof.Machine

/-- LIMIT: clamp a duration to the pulse range (40_shared_contract.md R121). -/
def execLimit (nanos : Operand) (s : State) : Host.Outcome State Fault Refusal :=
  .next (s.complete ⟨BitVec.ofNat 32 (limitNanos nanos.toNat), statusOk⟩)

/-- BIT: a single-bit mask (40_shared_contract.md R123). -/
def execBit (shift : BitVec 4) (s : State) : Host.Outcome State Fault Refusal :=
  .next (s.complete ⟨BitVec.ofNat 32 (bitMask shift.toNat), statusOk⟩)

/-- CAPS: read the capability flags (40_shared_contract.md R124). -/
def execCaps (s : State) : Host.Outcome State Fault Refusal :=
  .next (s.complete ⟨BitVec.ofNat 32 (capsValue s.cfg), statusOk⟩)

end Sys2Proof.Machine
end

