-- ==== Sys2Proof/Machine/Converter.lean ====
section
/-! DEFINITION. The pulse-width converter: CONV (41_converter.md). It is pure, and available without the timer hardware
(40_shared_contract.md R120). -/

namespace Sys2Proof.Machine

/-- Complete a conversion whose duration the converter scales, or whose result is a draw of W(P) bits when the duration is
out of range (41_converter.md R141, R144, R146). -/
def State.completeConv (s : State) (w nanos scaled : Nat) : State :=
  if inNanosRange nanos then s.complete ⟨BitVec.ofNat 32 scaled, statusOk⟩
  else s.afterDraw.complete ⟨(s.drawn w).setWidth 32, statusOk⟩

/-- `conv16(fc, nanos)`: an unsupported code gives the sentinel 0 with status UNSUPPORTED_FREQ before any range check
(41_converter.md R141). -/
def State.conv16 (s : State) (code : BitVec 4) (nanos : Nat) : State :=
  match freqOfCode code with
  | none => s.complete ⟨0, statusUnsupportedFreq⟩
  | some f => s.completeConv 16 nanos (scale16 s.cfg.convOrder f nanos)

/-- `conv8(nanos)` (41_converter.md R144). -/
def State.conv8 (s : State) (nanos : Nat) : State := s.completeConv 8 nanos (scale8 nanos)

/-- CONV: convert a duration to a raw compare value (41_converter.md R140). -/
def execConv (p : Periph) (code : BitVec 4) (nanos : Operand) (s : State) : Host.Outcome State Fault Refusal :=
  .next <| s.legal (.conv p code nanos) <|
    match p with
    | .t16 => s.conv16 code nanos.toNat
    | .t8 => s.conv8 nanos.toNat

end Sys2Proof.Machine
end

