-- ==== Sys2Proof/Machine/TimerOps.lean ====
section
/-! DEFINITION. The timer operations PREPARE, START, PULSE, PULSEA, PULSEB and STOP, each a list of micro-steps in the
source's order (43_timer_operations.md). The step that decodes one also executes its first micro-step (R180). -/

namespace Sys2Proof.Machine

/-- PREP(P), the preparation micro-steps (43_timer_operations.md R182, R183): the seventh writes PER on T16 and pins CMPA on
T8. -/
def prep (cfg : Config) (p : Periph) : List MicroStep :=
  [.w p .ctrlB 0x00,
    .w p .cnt (BitVec.ofNat 32 p.max),
    .w p .clken 0x01,
    .w p .imsk 0x00,
    .w p .iflg 0x03,
    .w p .imsk 0x03,
    match p with
    | .t16 => .w .t16 .per (BitVec.ofNat 32 (outMax .t16 cfg.fCpu))
    | .t8 => .w .t8 .cmpA 0xFF,
    .w p .ctrlA (ctrlARun.setWidth 32)]

/-- W(CTRLB, CS_START(P, F_CPU)), the clock-start write (43_timer_operations.md R185). -/
def clockStart (cfg : Config) (p : Periph) : MicroStep := .w p .ctrlB (csStartValue cfg p)

/-- W(CMPx, inv(P, v)) (43_timer_operations.md R187, R188). -/
def compareWrite (cfg : Config) (p : Periph) (x : Channel) (v : Nat) : MicroStep :=
  .w p (match x with | .a => .cmpA | .b => .cmpB) ((inv p cfg.fCpu v).setWidth 32)

/-- The micro-steps of PREPARE (43_timer_operations.md R184). -/
def prepareSteps (cfg : Config) (p : Periph) : List MicroStep := prep cfg p

/-- The micro-steps of START (43_timer_operations.md R185). -/
def startSteps (cfg : Config) (p : Periph) : List MicroStep := [clockStart cfg p]

/-- The micro-steps of PULSE (43_timer_operations.md R187). -/
def pulseSteps (cfg : Config) (p : Periph) (a b : Nat) : List MicroStep :=
  prep cfg p ++ [compareWrite cfg p .a a, compareWrite cfg p .b b, .dirOr p 0x03, clockStart cfg p]

/-- The micro-steps of PULSEA (43_timer_operations.md R190). -/
def pulseASteps (cfg : Config) (p : Periph) (v : Nat) : List MicroStep :=
  prep cfg p ++ [compareWrite cfg p .a v, .dirOr p 0x01, clockStart cfg p]

/-- The micro-steps of PULSEB (43_timer_operations.md R191). -/
def pulseBSteps (cfg : Config) (p : Periph) (v : Nat) : List MicroStep :=
  prep cfg p ++ [compareWrite cfg p .b v, .dirOr p 0x02, clockStart cfg p]

/-- The micro-steps of STOP: the clock-start bits first, so that the CTRLA write is no hazard (43_timer_operations.md
R192). -/
def stopSteps (p : Periph) : List MicroStep :=
  [.w p .ctrlB 0x00, .w p .ctrlA 0x00, .w p .clken 0x00]

/-- A composite command: the checks, then µq gets the micro-steps and the first executes in the same step
(43_timer_operations.md R180, R181). -/
def State.composite (s : State) (i : Instr) (p : Periph) (pulsed : List Nat) (steps : List MicroStep) : State :=
  s.checked i p pulsed (s.runMicro (some (encode i)) steps)

/-- PREPARE: put the peripheral in phase Configured (43_timer_operations.md R184). -/
def execPrepare (p : Periph) (s : State) : Host.Outcome State Fault Refusal :=
  .next (s.composite (.prepare p) p [] (prepareSteps s.cfg p))

/-- START: start the counter (43_timer_operations.md R185). -/
def execStart (p : Periph) (s : State) : Host.Outcome State Fault Refusal :=
  .next (s.composite (.start p) p [] (startSteps s.cfg p))

/-- PULSE: one pulse on both channels (43_timer_operations.md R187). -/
def execPulse (p : Periph) (valueA valueB : BitVec 16) (s : State) : Host.Outcome State Fault Refusal :=
  .next (s.composite (.pulse p valueA valueB) p [valueA.toNat, valueB.toNat]
    (pulseSteps s.cfg p valueA.toNat valueB.toNat))

/-- PULSEA: one pulse on channel A (43_timer_operations.md R190). -/
def execPulseA (p : Periph) (value : Operand) (s : State) : Host.Outcome State Fault Refusal :=
  .next (s.composite (.pulseA p value) p [value.toNat] (pulseASteps s.cfg p value.toNat))

/-- PULSEB: one pulse on channel B (43_timer_operations.md R191). -/
def execPulseB (p : Periph) (value : Operand) (s : State) : Host.Outcome State Fault Refusal :=
  .next (s.composite (.pulseB p value) p [value.toNat] (pulseBSteps s.cfg p value.toNat))

/-- STOP: halt the peripheral (43_timer_operations.md R192). -/
def execStop (p : Periph) (s : State) : Host.Outcome State Fault Refusal :=
  .next (s.composite (.stop p) p [] (stopSteps p))

end Sys2Proof.Machine
end

