-- ==== Sys2Proof/Machine/Dispatch.lean ====
section
/-! DEFINITION. One arm per command: the controller's execution of a decoded command (10_state.md R26, 43_timer_operations.md
R180). -/

namespace Sys2Proof.Machine

def exec (i : Instr) (s : State) : Host.Outcome State Fault Refusal :=
  match i with
  | .limit nanos => Sys2Proof.Machine.execLimit nanos s
  | .bit shift => Sys2Proof.Machine.execBit shift s
  | .conv p code nanos => Sys2Proof.Machine.execConv p code nanos s
  | .caps => Sys2Proof.Machine.execCaps s
  | .wr p r value => Sys2Proof.Machine.execWr p r value s
  | .rd p r => Sys2Proof.Machine.execRd p r s
  | .prepare p => Sys2Proof.Machine.execPrepare p s
  | .start p => Sys2Proof.Machine.execStart p s
  | .pulse p valueA valueB => Sys2Proof.Machine.execPulse p valueA valueB s
  | .pulseA p value => Sys2Proof.Machine.execPulseA p value s
  | .pulseB p value => Sys2Proof.Machine.execPulseB p value s
  | .stop p => Sys2Proof.Machine.execStop p s

end Sys2Proof.Machine
end

