-- ==== Sys2Proof/Machine/Refresh.lean ====
section
/-! DEFINITION. The refresh units: the interrupt-driven write of REFRESH_VALUE into a compare register (60_exceptions.md R250
to R257). -/

namespace Sys2Proof.Machine

/-- REFRESH_VALUE(P): MAX(P), or TOP(P) in the other reading (60_exceptions.md R253). -/
def State.refreshValue (s : State) (p : Periph) : BitVec p.width :=
  match s.cfg.refreshSel.get p with
  | .max => BitVec.allOnes p.width
  | .top => s.top p

/-- `refresh(P, x)`: CMPx <- REFRESH_VALUE(P), IFLG.IFx <- 0, and nothing else (60_exceptions.md R252). -/
def State.refreshStep (s : State) (p : Periph) (x : Channel) : State :=
  let t := (s.timer p).setCmp x (s.refreshValue p)
  s.setTimer p { t with iflg := t.iflg &&& ~~~x.mask }

end Sys2Proof.Machine
end

