-- ==== Sys2Proof/Machine/Agents.lean ====
section
/-! DEFINITION. The agents: which have an enabled step, what a step of each does, and which moves next (10_state.md R20,
20_memory.md R79, 44_counter_waveform.md R210, 60_exceptions.md R252). -/

namespace Sys2Proof.Machine

/-- The seven agents (10_state.md R20). -/
def Agent.all : List Agent :=
  [.controller, .counter .t16, .counter .t8, .refresh .t16 .a, .refresh .t16 .b, .refresh .t8 .a, .refresh .t8 .b]

/-- Whether the machine has halted: FAULT ≠ none or REFUSED (60_exceptions.md R248). -/
def State.halted (s : State) : Bool := s.fault.isSome || s.refused.isSome

/-- Whether an agent has an enabled step (20_memory.md R79, 44_counter_waveform.md R210, 60_exceptions.md R252). -/
def State.enabled (s : State) : Agent → Bool
  | .controller => !s.halted && (!s.uq.isEmpty || decide (s.pc < s.program.length))
  | .counter p => !s.halted && (s.timer p).cs != 0 && (s.timer p).en && s.cfg.hasTimerHw
  | .refresh p x => !s.halted && (s.timer p).pending x && s.cfg.hasTimerHw

/-- The agents with an enabled step. -/
def State.enabledAgents (s : State) : List Agent := Agent.all.filter s.enabled

/-- Decode the word at pc and execute the command; an illegal word raises ILLEGAL_COMMAND (30_encoding.md R98,
60_exceptions.md R242). -/
def State.runWord (s : State) (w : Word) : Host.Outcome State Fault Refusal :=
  match decode w with
  | .cmd i => exec i s
  | .illegal _ => .next (s.raiseFault .illegalCommand (some w) .controller)

/-- The step of the controller: the head of µq while it is non-empty, else the command at pc (10_state.md R26). At the end of
the program the controller has no step (70_reset_and_hazards.md R292). The word of a pending micro-step is the one at pc
(log entry 12). -/
def State.controllerStep (s : State) : Host.Outcome State Fault Refusal :=
  match s.uq with
  | m :: rest => .next (s.runMicro s.fetch (m :: rest))
  | [] => match s.fetch with
    | some w => s.runWord w
    | none => .fault .noEnabledStep

/-- One step of one agent (20_memory.md R74). -/
def State.agentStep (s : State) : Agent → Host.Outcome State Fault Refusal
  | .controller => s.controllerStep
  | .counter p => .next (s.counterStep p)
  | .refresh p x => .next (s.refreshStep p x)

/-- Which agent moves next, with the state after the choice (20_memory.md R79, log entry 6): the first agent of `sched` that
has an enabled step; when `sched` names none, the only enabled agent, or a free choice among several. -/
def State.choose (s : State) : Option (Agent × State) :=
  match s.sched.dropWhile (fun a => !s.enabled a) with
  | a :: rest => some (a, s.setSchedule rest s.turn)
  | [] => match s.enabledAgents with
    | [] => none
    | [a] => some (a, s.setSchedule [] s.turn)
    | a :: b :: rest =>
      some ((a :: b :: rest).getD (Config.freeChoice s.turn % (rest.length + 2)) a,
        s.setSchedule [] (s.turn + 1))

/-- One step of the machine: the chosen agent's, or a stop when no agent has an enabled step (60_exceptions.md R248, log entry
7). -/
def State.stepChosen (s : State) : Host.Outcome State Fault Refusal :=
  match s.fault, s.refused with
  | some r, _ => .fault (.halted r.code)
  | none, some r => .refused (.halted r.reason)
  | none, none =>
    match s.choose with
    | some (a, s') => s'.agentStep a
    | none => .fault .noEnabledStep

/-! ### Loading a word -/

/-- The program with a word placed at an index; words that are missing below it are the all-zero word. -/
def placeWord (program : List Word) (pc : Nat) (w : Word) : List Word :=
  program.take pc ++ List.replicate (pc - program.length) 0 ++ w :: program.drop (pc + 1)

/-- The state in which the very next step is the controller's, executing the word: the word stands at pc, µq is empty, nothing
has faulted, and the interleaving gives the controller the next step (log entry 1). -/
def State.withNextWord (s : State) (w : Word) : State :=
  { s with
    program := placeWord s.program s.pc w
    uq := []
    fault := none
    refused := none
    sched := .controller :: s.sched }

end Sys2Proof.Machine
end

