-- ==== Sys2Proof/Machine/Step.lean ====
section
/-! DEFINITION. The machine's step and the placing of a word for it (Machine/Agents.lean holds what they call). -/

namespace Sys2Proof.Machine

/-- One step of one agent (20_memory.md R79). -/
def step (s : State) : Host.Outcome State Fault Refusal := s.stepChosen

/-- The state whose next step runs the word (log entries 1 and 15). -/
def State.withFetchWord (s : State) (nbits w : Nat) : State := s.withNextWord (tableWord nbits w)

end Sys2Proof.Machine
end

