-- ==== Sys2Proof/Machine/Observe.lean ====
section
/-! DEFINITION. What is seen of a state: the pins (44_counter_waveform.md R217) and the phase of a peripheral (10_state.md
R52). Neither is state. -/

namespace Sys2Proof.Machine

/-- What a pin shows (44_counter_waveform.md R217). The level of an input (`hiZ`) and of a pin driven outside the block
(`ext`) is not assumed (log entry 18). -/
inductive Pin where
  | hiZ
  | high
  | low
  | ext
deriving DecidableEq, Repr

/-- pin(P, x) (44_counter_waveform.md R217). -/
def State.pin (s : State) (p : Periph) (x : Channel) : Pin :=
  let t := s.timer p
  if t.dirBit x = false then .hiZ
  else if t.comEn x then (if t.oc x then .high else .low)
  else .ext

/-- The pins of a peripheral, one entry of its pin trace (44_counter_waveform.md R223). -/
def State.pins (s : State) (p : Periph) : Pin × Pin := (s.pin p .a, s.pin p .b)

/-- The phases of a peripheral (10_state.md R52). -/
inductive Phase where
  | running
  | configured
  | stopped
  | other
deriving DecidableEq, Repr

/-- The phase of peripheral P, a function of its registers (10_state.md R52). -/
def State.phase (s : State) (p : Periph) : Phase :=
  let t := s.timer p
  if t.en && t.cs != 0 then .running
  else if t.cs == 0 && t.en && t.ctrlA == ctrlARun then .configured
  else if t.ctrlA == 0 && t.ctrlB == 0 && !t.en then .stopped
  else .other

end Sys2Proof.Machine
end

