-- ==== Sys2Proof/Machine/Runs.lean ====
section
/-! DEFINITION. Executions: interleavings of agents' steps (20_memory.md R79), a command run to completion with nothing
interleaved, runs of ticks, the end of the controller's program (70_reset_and_hazards.md R292), which executions count (R294)
and the refresh deadline (R286). Machine/Observation.lean holds what is observed of them. -/

namespace Sys2Proof.Machine

/-! ### Interleavings -/

/-- The step of an agent, if it is enabled (20_memory.md R79). -/
def State.take (s : State) (a : Agent) : Option State :=
  if s.enabled a then
    match s.agentStep a with
    | .next t => some t
    | _ => none
  else none

/-- The states an interleaving of agents passes through, the first excluded; none if it names an agent with no enabled
step. -/
def State.interleave (s : State) : List Agent → Option (List State)
  | [] => some []
  | a :: rest => (s.take a).bind fun t => (t.interleave rest).map (t :: ·)

/-- The state an interleaving of agents leads to; none if it names an agent with no enabled step. -/
def State.after (s : State) : List Agent → Option State
  | [] => some s
  | a :: rest => (s.take a).bind fun t => t.after rest

/-- Some enabled agent's step leads from one state to the other (20_memory.md R79). -/
def Moves (s t : State) : Prop := ∃ a, s.take a = some t

/-! ### One command with nothing interleaved -/

/-- At most `n` micro-steps of the controller, while µq is non-empty and nothing has halted. -/
def State.drain : Nat → State → State
  | 0, s => s
  | n + 1, s => if s.uq.isEmpty || s.halted then s else (s.runMicro s.fetch s.uq).drain n

/-- The pending micro-steps executed with no other agent in between. -/
def State.finish (s : State) : State := s.drain s.uq.length

/-- A command executed to completion with no other agent in between (43_timer_operations.md R193). -/
def State.runCommand (s : State) (i : Instr) : Host.Outcome State Fault Refusal :=
  match exec i s with
  | .next t => .next t.finish
  | o => o

/-- RESP after the controller's execution of a command (10_state.md R23). -/
def State.respAfter (s : State) (i : Instr) : Option Resp :=
  match exec i s with
  | .next t => some t.resp
  | _ => none

/-! ### Runs of ticks -/

/-- `n` steps of counter(P) and nothing else. -/
def State.ticks (p : Periph) : Nat → State → State
  | 0, s => s
  | n + 1, s => (s.counterStep p).ticks p n

/-- The refresh of a channel, if it is enabled. -/
def State.refreshIfEnabled (s : State) (p : Periph) (x : Channel) : State :=
  if s.enabled (.refresh p x) then s.refreshStep p x else s

/-- A tick of counter(P), and every refresh of P it enables at once: the eager schedule (95_test_vectors.md). -/
def State.eagerTick (s : State) (p : Periph) : State :=
  ((s.counterStep p).refreshIfEnabled p .a).refreshIfEnabled p .b

/-- `n` ticks of counter(P) under the eager schedule, and nothing else. -/
def State.eagerTicks (p : Periph) : Nat → State → State
  | 0, s => s
  | n + 1, s => (s.eagerTick p).eagerTicks p n

/-! ### Executions -/

/-- The controller has ended: pc = length(program), µq empty, FAULT = none and REFUSED = false (70_reset_and_hazards.md
R292). -/
def State.atEnd (s : State) : Bool := s.pc == s.program.length && s.uq.isEmpty && !s.halted

/-- An execution: the states, and the agent of each step (none once no agent has an enabled step, when the state stays). -/
structure Execution where
  state : Nat → State
  agent : Nat → Option Agent

/-- The steps of an execution are steps of the machine (20_memory.md R79). -/
def Execution.Valid (e : Execution) : Prop :=
  ∀ n, match e.agent n with
    | some a => (e.state n).take a = some (e.state (n + 1))
    | none => (e.state n).enabledAgents = [] ∧ e.state (n + 1) = e.state n

/-- Weak fairness: an agent whose step stays enabled eventually takes it (70_reset_and_hazards.md R294). -/
def Execution.WeaklyFair (e : Execution) : Prop :=
  ∀ a n, (∀ m, n ≤ m → (e.state m).enabled a = true) → ∃ m, n ≤ m ∧ e.agent m = some a

/-- An execution counts only if its steps are the machine's and it is weakly fair (70_reset_and_hazards.md R294). -/
def Execution.Counted (e : Execution) : Prop := e.Valid ∧ e.WeaklyFair

/-- A counted execution that starts in the given state. From the end state of a run it is a weakly fair continuation of the
run (70_reset_and_hazards.md R292). -/
def Execution.CountedFrom (e : Execution) (s : State) : Prop := e.Counted ∧ e.state 0 = s

/-- A step that is a counting tick of counter(P) in which channel x matches (44_counter_waveform.md R214). -/
def Execution.MatchAt (e : Execution) (p : Periph) (x : Channel) (n : Nat) : Prop :=
  e.agent n = some (.counter p) ∧ (e.state n).modelledMode p = true ∧
    ((e.state n).timer p).hits ((e.state n).top p) x = true

/-- REFRESH_WITHIN_PERIOD(P, x): after every match of channel x, refresh(P, x) steps before counter(P) next starts a tick from
the count of that match (70_reset_and_hazards.md R286). A premise, not a rule of the machine. -/
def Execution.RefreshWithinPeriod (e : Execution) (p : Periph) (x : Channel) : Prop :=
  ∀ n m, n < m → e.MatchAt p x n → e.agent m = some (.counter p) →
    ((e.state m).timer p).cnt = ((e.state n).timer p).cnt → ∃ k, n < k ∧ k < m ∧ e.agent k = some (.refresh p x)

end Sys2Proof.Machine
end

