-- ==== Sys2Proof/Machine/Observation.lean ====
section
/-! DEFINITION. The observation of a run: the pin traces and the count of high ticks (44_counter_waveform.md R223), the end of
a run, and what a claim about a program is held to (70_reset_and_hazards.md R292). Every execution that enters it is weakly
fair (R294). -/

namespace Sys2Proof.Machine

/-! ### Pin traces -/

/-- The pin trace of peripheral P over the states after each step of an interleaving, as `State.interleave` lists them
(44_counter_waveform.md R223). -/
def pinTrace (p : Periph) (run : List State) : List (Pin × Pin) := run.map (·.pins p)

/-- Entry n of the pin trace of an execution: the pins after its step n, whichever agent's it is; none from where no agent
has a step any more (44_counter_waveform.md R223). -/
def Execution.pinTrace (e : Execution) (p : Periph) (n : Nat) : Option (Pin × Pin) :=
  (e.agent n).map fun _ => (e.state (n + 1)).pins p

/-- The pin trace of the first n steps of an execution: up to the end of a run, what the pins show during its commands
(43_timer_operations.md R193, 44_counter_waveform.md R223). -/
def Execution.pinTraceTo (e : Execution) (n : Nat) (p : Periph) : List (Pin × Pin) :=
  (List.range n).filterMap (e.pinTrace p)

/-- Whether a step, given by its agent and the state after it, is a tick of counter(P) during which the pin of channel x is
High: the trace's entry for that tick (44_counter_waveform.md R223, log entry 21). -/
def highTick (p : Periph) (x : Channel) (a : Agent) (t : State) : Bool := a == .counter p && t.pin p x == .high

/-- The high time of a pin, in ticks, over an interleaving and the states after each of its steps (44_counter_waveform.md
R223). -/
def highTicks (p : Periph) (x : Channel) (as : List Agent) (run : List State) : Nat :=
  (as.zip run).countP fun e => highTick p x e.1 e.2

/-- The high time of a pin over an interleaving from a state; none if it names an agent with no enabled step. -/
def State.highTicksAfter (s : State) (p : Periph) (x : Channel) (as : List Agent) : Option Nat :=
  (s.interleave as).map (highTicks p x as)

/-- The high time of a pin over the first n steps of an execution (44_counter_waveform.md R223). -/
def Execution.highTicks (e : Execution) (p : Periph) (x : Channel) (n : Nat) : Nat :=
  (List.range n).countP fun k => (e.agent k).any fun a => highTick p x a (e.state (k + 1))

/-! ### The end of a run -/

/-- The run ends at step n: there the end condition first holds (70_reset_and_hazards.md R292). -/
def Execution.EndsAt (e : Execution) (n : Nat) : Prop :=
  (e.state n).atEnd = true ∧ ∀ m, m < n → (e.state m).atEnd = false

/-- No weakly fair continuation of the state meets a fault or a refusal (70_reset_and_hazards.md R292). -/
def State.SafeAfter (s : State) : Prop := ∀ e : Execution, e.CountedFrom s → ∀ n, (e.state n).halted = false

/-- The observation of an execution is defined at step n: the execution counts, it ends there, and no weakly fair
continuation of its end state meets a fault or a refusal (70_reset_and_hazards.md R292, R294). -/
def Execution.ObservableAt (e : Execution) (n : Nat) : Prop := e.Counted ∧ e.EndsAt n ∧ (e.state n).SafeAfter

/-- The observation of an execution is defined (70_reset_and_hazards.md R292). -/
def Execution.Observable (e : Execution) : Prop := ∃ n, e.ObservableAt n

/-! ### The observation -/

/-- The RESP the host reads when the step from `s` to `t` completes a command (10_state.md R23). -/
def respOfStep (s t : State) : Option Resp := if s.pc + 1 = t.pc then some t.resp else none

/-- The RESP history over the states a run passes through, the first included: one entry for each command that completes
(70_reset_and_hazards.md R292). -/
def respHistory : List State → List Resp
  | s :: t :: rest => (respOfStep s t).toList ++ respHistory (t :: rest)
  | _ => []

/-- The states of an execution up to step n, both ends included. -/
def Execution.statesTo (e : Execution) (n : Nat) : List State := (List.range (n + 1)).map e.state

/-- The registers of a state: none where P has no such register, or the timer hardware is absent (10_state.md R31,
60_exceptions.md R266). -/
def State.registers (s : State) (p : Periph) (r : Reg) : Option Operand :=
  if s.cfg.hasTimerHw && r.presentOn p then some (s.readReg p r) else none

/-- The set of pin traces of every weakly fair continuation of a state, each from the first step after that state
(70_reset_and_hazards.md R292, log entry 22). -/
def State.pinTraces (s : State) : Set (Periph → Nat → Option (Pin × Pin)) :=
  fun trace => ∃ e : Execution, e.CountedFrom s ∧ trace = e.pinTrace

/-- What is observed of a run: the three things of 70_reset_and_hazards.md R292, and the pin trace during its commands, which
43_timer_operations.md R193 adds (log entry 22). -/
structure Observation where
  /-- One RESP for each command, read by the host after each. -/
  resp : List Resp
  /-- The registers of the end state. -/
  registers : Periph → Reg → Option Operand
  /-- The pin trace from the first step after reset to the end state, the steps during every command among them. -/
  runTrace : Periph → List (Pin × Pin)
  /-- The pin traces of every weakly fair continuation, from the first step after the end state. -/
  pinTraces : Set (Periph → Nat → Option (Pin × Pin))

/-- The observation of an execution that ends at step n (70_reset_and_hazards.md R292, 43_timer_operations.md R193). -/
def Execution.observation (e : Execution) (n : Nat) : Observation where
  resp := respHistory (e.statesTo n)
  registers := (e.state n).registers
  runTrace := e.pinTraceTo n
  pinTraces := (e.state n).pinTraces

/-- A claim holds of a program under a configuration: every weakly fair run from reset ends, its observation is defined, and
the claim holds of it. A run that never ends, or whose observation is not defined, refutes every claim
(70_reset_and_hazards.md R280, R292, R294). -/
def ClaimHolds (cfg : Config) (program : List Word) (claim : Observation → Prop) : Prop :=
  ∀ e : Execution, e.CountedFrom (State.launch cfg program) →
    ∃ n, e.ObservableAt n ∧ claim (e.observation n)

end Sys2Proof.Machine
end

