-- ==== Sys2Proof/Machine/Timing.lean ====
section
/-! DEFINITION. Derived timing (70_reset_and_hazards.md R290): the durations the parameters and the source's period constants
give. No step of the machine depends on them (log entry 13). Durations are in microseconds, as exact rationals. -/

namespace Sys2Proof.Machine

/-- The duration of a tick under a prescaler code and a frequency: PRESC(P, code) / F_Hz (70_reset_and_hazards.md R290). -/
def tickMicros (cfg : Config) (p : Periph) (code : CsCode) (f : Freq) : Rat :=
  (((cfg.presc.get p).get code : Nat) : Rat) * 1000000 / (((cfg.freqHz.get f) : Nat) : Rat)

/-- The duration of a tick by the source's constants: FullPeriod(P, f) / 2^W(P), FullPeriod read as the time of 2^W(P) ticks
(70_reset_and_hazards.md R290, 92_eei_decisions.md D11). -/
def nominalTickMicros (p : Periph) (f : Freq) : Rat := (fullPeriod p f : Rat) / (2 ^ p.width : Nat)

/-- The known constraints on the prescaler codes (10_state.md R35): T8's tick is the same at both frequencies, and T16's tick
lasts FullPeriod(T16, f) / 65536 µs. -/
def prescalersConsistent (cfg : Config) : Prop :=
  tickMicros cfg .t8 (cfg.csStart.t8.get .ref) .ref = tickMicros cfg .t8 (cfg.csStart.t8.get .alt) .alt ∧
    ∀ f, tickMicros cfg .t16 (cfg.csStart.t16.get f) f = nominalTickMicros .t16 f

/-- The ticks of a period: TOP + 1 (70_reset_and_hazards.md R290). -/
def State.periodTicks (s : State) (p : Periph) : Nat := (s.top p).toNat + 1

/-- The nominal duration of a number of ticks (70_reset_and_hazards.md R290). -/
def ticksMicros (p : Periph) (f : Freq) (n : Nat) : Rat := n * nominalTickMicros p f

/-- The nominal duration of a period (70_reset_and_hazards.md R290). -/
def State.periodMicros (s : State) (p : Periph) : Rat := ticksMicros p s.cfg.fCpu (s.periodTicks p)

end Sys2Proof.Machine
end

