-- ==== Sys2Proof/Safety.lean ====
section
/-! DEFINITION. What counts as a safe state, and the invariants claims use: no fault and no refusal (60_exceptions.md R248),
and every reserved bit 0 (10_state.md R30). -/

namespace Sys2Proof.Machine

/-- No fault and no refusal: the premise of every claim (60_exceptions.md R248). -/
def State.live (s : State) : Prop := s.fault = none ∧ s.refused = none

/-- The controller is between commands and the word at pc is the given one: the host has just issued it (10_state.md R25,
R26). -/
def State.issues (s : State) (w : Word) : Prop := s.live ∧ s.uq = [] ∧ s.fetch = some w

/-- Every reserved bit of a peripheral's control registers is 0 (10_state.md R30, 30_encoding.md R97). -/
def Timer.reservedClear {w : Nat} (t : Timer w) : Prop :=
  t.ctrlA &&& 0xF8 = 0 ∧ t.ctrlB &&& 0xF8 = 0 ∧ t.imsk &&& 0xFC = 0 ∧ t.iflg &&& 0xFC = 0 ∧ t.dir &&& 0xFC = 0 ∧
    t.clken &&& 0xFE = 0

/-- Every reserved bit of the block is 0 (10_state.md R30). -/
def State.reservedClear (s : State) : Prop := s.t16.reservedClear ∧ s.t8.reservedClear

/-- pc never passes the end of the program (10_state.md R25), and a command is being executed while µq is non-empty
(10_state.md R26). -/
def State.pcInProgram (s : State) : Prop := s.pc ≤ s.program.length ∧ (s.uq ≠ [] → s.pc < s.program.length)

/-- Two states agree on the registers and latches of a peripheral, PER among T16's. -/
def State.samePeriph (s t : State) : Periph → Prop
  | .t16 => s.t16 = t.t16 ∧ s.per = t.per
  | .t8 => s.t8 = t.t8

/-- Two states agree on all but the two fields the choice of an agent uses (log entry 6). -/
def State.sameButSchedule (s t : State) : Prop := s.setSchedule t.sched t.turn = t

end Sys2Proof.Machine
end

