-- ==== Sys2Proof/Certificates/Slice0/Obligations.lean ====
section
/-! DEFINITION. The statements for the provers, each a Prop that formalises the rule of spec/ its docstring names. A
statement about a command's result is about every state: the registers, the configuration and every open parameter are
those of the state, whatever they are. -/

open Sys2Proof Sys2Proof.Machine

/-! ## Encoding -/

/-- Decoding the word of a command some word encodes gives that command, at every value of its operands (30_encoding.md R91
to R98). -/
def Obligations.DecodeOfEncodeIsCommand : Prop :=
  ∀ i : Instr, i.wf = true → decode (encode i) = .cmd i

/-- Each word has at most one meaning, and a decoded command encodes to the very word it was read from (30_encoding.md R97,
R98): no bit of a command word is dropped. -/
def Obligations.EncodeOfDecodeIsWord : Prop :=
  ∀ (w : Word) (i : Instr), decode w = .cmd i → i.wf = true ∧ encode i = w

/-- 30_encoding.md R97: a word is the command m iff its (match, mask) pair and its further constraints hold; the pairs are
disjoint; a word in no row raises ILLEGAL_COMMAND. -/
def Obligations.CommandIffRowOfOpcodeTable : Prop :=
  (∀ (w : Word) (op : Op), (∃ i, decode w = .cmd i ∧ i.op = op) ↔ op.rowAccepts w = true) ∧
  (∀ (w : Word) (a b : Op), a ≠ b → ¬(w &&& a.maskBits = a.matchBits ∧ w &&& b.maskBits = b.matchBits)) ∧
  (∀ (s : State) (w : Word), s.issues w → (∀ op : Op, op.rowAccepts w = false) →
    s.controllerStep = .next { s with fault := some ⟨.illegalCommand, s.pc, some w, .controller⟩ })

/-- 60_exceptions.md R242: the causes of ILLEGAL_COMMAND are exactly the listed ones, the record holds the word, and no effect
of the command takes place. -/
def Obligations.IllegalCommandCauses : Prop :=
  (∀ w : Word,
    let opc := (w.extractLsb' 60 4).toNat
    let p := Periph.ofBit (w.extractLsb' 59 1)
    let sel := (w.extractLsb' 52 4).toNat
    let imm : Operand := w.extractLsb' 0 32
    (∃ why, decode w = .illegal why) ↔
      (opc = 0x0 ∨ 0xD ≤ opc) ∨
      (w.extractLsb' 56 3 ≠ 0 ∨ w.extractLsb' 32 20 ≠ 0) ∨
      (opc ∈ [0x1, 0x2, 0x4] ∧ p = .t8) ∨
      (opc ∈ [0x1, 0x4, 0x7, 0x8, 0x9, 0xA, 0xB, 0xC] ∧ sel ≠ 0) ∨ (opc = 0x3 ∧ p = .t8 ∧ sel ≠ 0) ∨
      (opc ∈ [0x5, 0x6] ∧ (10 ≤ sel ∨ (sel = 3 ∧ p = .t8))) ∨
      (opc = 0x5 ∧ ∃ r : Reg, r.index.toNat = sel ∧ imm &&& ~~~(r.widthMask p) ≠ 0) ∨
      (opc ∈ [0x2, 0x4, 0x6, 0x7, 0x8, 0xC] ∧ imm ≠ 0) ∨
      (opc = 0x9 ∧ p = .t8 ∧ imm &&& 0xFF00FF00 ≠ 0) ∨ (opc ∈ [0xA, 0xB] ∧ p.max < imm.toNat)) ∧
  (∀ (s : State) (w : Word) (why : IllegalCause), s.issues w → decode w = .illegal why →
    s.controllerStep = .next { s with fault := some ⟨.illegalCommand, s.pc, some w, .controller⟩ })

/-- A word with RSV1 ≠ 0 or RSV2 ≠ 0 is illegal and raises ILLEGAL_COMMAND when it is decoded (30_encoding.md section 1). That
the cause is named `reservedField`, before any other cause of the word, is the model's choice (log entry 17), and so are the
schedule fields in which `s'` differs from `s` (log entry 6). -/
def Obligations.ReservedFieldRaisesIllegal : Prop :=
  ∀ (s s' : State) (w : Word), s.issues w → s.choose = some (.controller, s') →
    (w.extractLsb' 56 3 ≠ 0 ∨ w.extractLsb' 32 20 ≠ 0) →
    decode w = .illegal .reservedField ∧
      step s = .next { s' with fault := some ⟨.illegalCommand, s.pc, some w, .controller⟩ }

/-- The words of the encoding examples decode to their commands, and the six illegal words to none (30_encoding.md section 4).
The names of the causes are the model's (log entry 17). -/
def Obligations.EncodingExamplesDecode : Prop :=
  decode 0x100000000016E360 = .cmd (.limit 1500000) ∧
  decode 0x2070000000000000 = .cmd (.bit 7) ∧
  decode 0x300000000016E360 = .cmd (.conv .t16 0 1500000) ∧
  decode 0x30100000000F4240 = .cmd (.conv .t16 1 1000000) ∧
  decode 0x302000000016E360 = .cmd (.conv .t16 2 1500000) ∧
  decode 0x380000000016E360 = .cmd (.conv .t8 0 1500000) ∧
  decode 0x4000000000000000 = .cmd .caps ∧
  decode 0x5030000000007D00 = .cmd (.wr .t16 .per 32000) ∧
  decode 0x5870000000000003 = .cmd (.wr .t8 .iflg 3) ∧
  decode 0x6020000000000000 = .cmd (.rd .t16 .cnt) ∧
  decode 0x7000000000000000 = .cmd (.prepare .t16) ∧
  decode 0x8800000000000000 = .cmd (.start .t8) ∧
  decode 0x900000003E805DC0 = .cmd (.pulse .t16 24000 16000) ∧
  decode 0x98000000007D00BC = .cmd (.pulse .t8 188 125) ∧
  decode 0xA000000000005DC0 = .cmd (.pulseA .t16 24000) ∧
  decode 0xB8000000000000FB = .cmd (.pulseB .t8 251) ∧
  decode 0xC000000000000000 = .cmd (.stop .t16) ∧
  decode 0xC800000000000000 = .cmd (.stop .t8) ∧
  decode 0x0000000000000000 = .illegal .reservedOpcode ∧
  decode 0x1800000000000000 = .illegal .periphNotZero ∧
  decode 0x5830000000000000 = .illegal .noSuchRegister ∧
  decode 0x5000000000000008 = .illegal .valueOutsideMask ∧
  decode 0x3810000000000000 = .illegal .selNotZero ∧
  decode 0x9800000000000100 = .illegal .operandTooWide

/-! ## The step -/

/-- A step runs the decoded command: when the controller is between commands, the word at pc decodes to a command and the
choice falls on the controller, `step` is `exec` of that command, at the state that differs only in the two schedule fields
(10_state.md R26, 20_memory.md R79). -/
def Obligations.StepRunsDecodedCommand : Prop :=
  ∀ (s s' : State) (w : Word) (i : Instr), s.issues w → decode w = .cmd i → s.choose = some (.controller, s') →
    step s = exec i s' ∧ s.sameButSchedule s'

/-- 10_state.md R26: while µq is non-empty the controller's step executes its head, and the step that executes the last one
also writes RESP <- (0, OK) and pc <- pc + 1. -/
def Obligations.StepExecutesHeadMicroStep : Prop :=
  ∀ (s s' : State) (m : MicroStep) (rest : List MicroStep), s.live → s.uq = m :: rest →
    s.choose = some (.controller, s') → m.hazard s = false →
    s.sameButSchedule s' ∧
    (rest ≠ [] → step s = .next { m.effect s' with uq := rest }) ∧
    (rest = [] → step s = .next { m.effect s' with uq := [], resp := ⟨0, 0⟩, pc := s.pc + 1 })

/-- 20_memory.md R79: a step of the machine is a step of an agent that is enabled, and every enabled agent may take the next
step: the interleaving that names it makes it do so. -/
def Obligations.AnyEnabledAgentMayStep : Prop :=
  (∀ s t : State, step s = .next t →
    ∃ (a : Agent) (s' : State), s.enabled a = true ∧ s.sameButSchedule s' ∧ s'.agentStep a = .next t) ∧
  (∀ (s : State) (a : Agent) (rest : List Agent), s.enabled a = true → s.sched = a :: rest →
    ∃ t, step s = .next t ∧ ({ s with sched := rest } : State).agentStep a = .next t)

/-- The machine answers a next state exactly when some agent has an enabled step (20_memory.md R79, 60_exceptions.md R248). -/
def Obligations.StepAnswersIffSomeAgentEnabled : Prop :=
  ∀ s : State, (∃ t, step s = .next t) ↔ ∃ a, s.enabled a = true

/-- 60_exceptions.md R248: once FAULT ≠ none or REFUSED, no agent has an enabled step and the machine stops, so that no step
clears either; and such a state is never the end of a run. -/
def Obligations.HaltedMachineTakesNoStep : Prop :=
  ∀ s : State, (s.fault ≠ none ∨ s.refused ≠ none) →
    (∀ a, s.enabled a = false) ∧ (∀ a t, s.take a ≠ some t) ∧ (∀ t, step s ≠ .next t) ∧ s.atEnd = false

/-- The configuration and the program never change during a run (10_state.md R21). -/
def Obligations.ConfigurationNeverChanges : Prop :=
  ∀ s t : State, step s = .next t → t.cfg = s.cfg ∧ t.program = s.program

/-- pc stays within the program, and a command is being executed while µq is non-empty (10_state.md R25, R26): an invariant of
every step. pc and RESP change together, by a completion, and by exactly 1. -/
def Obligations.PcAdvancesOnlyAtCompletion : Prop :=
  ∀ s t : State, s.pcInProgram → step s = .next t →
    t.pcInProgram ∧
    ((t.pc = s.pc ∧ t.resp = s.resp) ∨ (t.pc = s.pc + 1 ∧ t.uq = [] ∧ t.fault = none ∧ t.refused = none))

/-! ## Reset and configuration -/

/-- 10_state.md R48, and the values R47 decides: the controller's reset state, and the control registers at 0; the draws of
R47 are not constrained. -/
def Obligations.ResetValues : Prop :=
  State.reset.pc = 0 ∧ State.reset.uq = [] ∧ State.reset.resp = ⟨0, 0⟩ ∧ State.reset.fault = none ∧
  State.reset.refused = none ∧
  (∀ p, (State.reset.timer p).ctrlA = 0 ∧ (State.reset.timer p).ctrlB = 0 ∧ (State.reset.timer p).imsk = 0 ∧
    (State.reset.timer p).iflg = 0 ∧ (State.reset.timer p).dir = 0 ∧ (State.reset.timer p).clken &&& 0xFE = 0)

/-- After reset no counter ticks and no refresh is enabled, whatever the draws, the configuration and the program
(70_reset_and_hazards.md R280), and every peripheral is in phase Stopped or Other (10_state.md R52). -/
def Obligations.ResetEnablesOnlyController : Prop :=
  ∀ (cfg : Config) (program : List Word) (a : Agent),
    ((State.launch cfg program).enabled a = true → a = .controller) ∧
    ∀ p, (State.launch cfg program).phase p = .stopped ∨ (State.launch cfg program).phase p = .other

/-- 10_state.md R49 and R50: the Peripheral Configuration constants. -/
def Obligations.PeripheralConstants : Prop :=
  (outMax .t16 .ref = 32000 ∧ outMin .t16 .ref = 16000 ∧ outRange .t16 .ref = 16000) ∧
  (outMax .t16 .alt = 64000 ∧ outMin .t16 .alt = 32000 ∧ outRange .t16 .alt = 32000) ∧
  (∀ f, outMax .t8 f = 251 ∧ outMin .t8 f = 125 ∧ outRange .t8 f = 126) ∧
  (∀ p f, outMin p f = outMax p f / 2 ∧ outRange p f = outMax p f - outMin p f ∧ outMax p f < 2 ^ p.width)

/-- The durations 70_reset_and_hazards.md R290 derives from the source's period constants. -/
def Obligations.NominalDurations : Prop :=
  nominalTickMicros .t16 .ref = 1 / 16 ∧ nominalTickMicros .t16 .alt = 1 / 32 ∧ (∀ f, nominalTickMicros .t8 f = 8) ∧
  ticksMicros .t16 .ref 32001 = 2000 + 1 / 16 ∧ ticksMicros .t16 .alt 64001 = 2000 + 1 / 32 ∧
  (∀ f, ticksMicros .t8 f 256 = 2048) ∧ ticksMicros .t16 .ref 24000 = 1500 ∧ (∀ f, ticksMicros .t8 f (188 + 4) = 1536)

/-- Every reserved bit of a register stays 0 over every step of every agent (10_state.md R30). -/
def Obligations.ReservedBitsStayClear : Prop :=
  ∀ s t : State, s.reservedClear → step s = .next t → t.reservedClear

/-- The two invariants, of pc and of the reserved bits, hold at reset. -/
def Obligations.InvariantsHoldAtReset : Prop := State.reset.pcInProgram ∧ State.reset.reservedClear

/-! ## LIMIT, BIT, CAPS -/

/-- 40_shared_contract.md R121: the word of LIMIT; it completes with the clamped duration, and changes nothing but RESP and
pc. -/
def Obligations.LimitClampsDuration : Prop :=
  ∀ (nanos : Operand) (s : State),
    encode (.limit nanos) = 0x1#4 ++ 0#1 ++ 0#3 ++ 0#4 ++ 0#20 ++ nanos ∧
    exec (.limit nanos) s = .next { s with
      resp := ⟨if nanos.toNat < 1000000 then 1000000 else if nanos.toNat > 2000000 then 2000000 else nanos, 0⟩
      pc := s.pc + 1 }

/-- 40_shared_contract.md R122: LIMIT's result lies in the range, LIMIT is idempotent and monotone, and leaves exactly the
durations of the range as they are. -/
def Obligations.LimitLaws : Prop :=
  ∀ (s : State) (x y : Operand), ∃ rx ry : Resp,
    s.respAfter (.limit x) = some rx ∧ s.respAfter (.limit y) = some ry ∧
    1000000 ≤ rx.value.toNat ∧ rx.value.toNat ≤ 2000000 ∧
    s.respAfter (.limit rx.value) = some rx ∧
    (x.toNat ≤ y.toNat → rx.value.toNat ≤ ry.value.toNat) ∧
    (rx.value = x ↔ 1000000 ≤ x.toNat ∧ x.toNat ≤ 2000000)

/-- 40_shared_contract.md R123: the word of BIT; it completes with the single bit at the position of the shift, a 16-bit
value, and changes nothing but RESP and pc. -/
def Obligations.BitIsSingleMask : Prop :=
  ∀ (shift : BitVec 4) (s : State),
    encode (.bit shift) = 0x2#4 ++ 0#1 ++ 0#3 ++ shift ++ 0#20 ++ 0#32 ∧
    exec (.bit shift) s = .next { s with resp := ⟨BitVec.ofNat 32 (2 ^ shift.toNat), 0⟩, pc := s.pc + 1 } ∧
    2 ^ shift.toNat < 2 ^ 16

/-- 40_shared_contract.md R124: the word of CAPS; it completes with F_CPU = ALT in bit 1 and HAS_TIMER_HW in bit 0, and
changes nothing but RESP and pc. -/
def Obligations.CapsReportsConfiguration : Prop :=
  ∀ s : State,
    encode .caps = 0x4000000000000000 ∧
    exec .caps s = .next { s with
      resp := ⟨match s.cfg.fCpu, s.cfg.hasTimerHw with
        | .ref, false => 0
        | .ref, true => 1
        | .alt, false => 2
        | .alt, true => 3, 0⟩
      pc := s.pc + 1 }

/-- 40_shared_contract.md R120: the pure commands read only their operands, the configuration and, for an out-of-range CONV,
the model's own draw; they complete in one step, write only RESP and pc (and the model's count of draws), and run without
the timer hardware. -/
def Obligations.PureCommandsReadNoRegister : Prop :=
  ∀ (i : Instr) (s u : State), i.wf = true → i.op ∈ [Op.limit, .bit, .conv, .caps] →
    s.cfg = u.cfg → s.draws = u.draws →
    ∃ (r : Resp) (n : Nat),
      exec i s = .next { s with resp := r, pc := s.pc + 1, draws := n } ∧
      exec i u = .next { u with resp := r, pc := u.pc + 1, draws := n }

/-! ## CONV -/

/-- 41_converter.md R141: the frequency is an argument of the command. Codes 2 to 15 give the sentinel (0, UNSUPPORTED_FREQ)
before any range check; codes 0 and 1 give a draw out of range and the scaled value in range. -/
def Obligations.ConvT16SelectsFrequency : Prop :=
  ∀ (code : BitVec 4) (nanos : Operand) (s : State),
    (2 ≤ code.toNat → exec (.conv .t16 code nanos) s = .next { s with resp := ⟨0, 1⟩, pc := s.pc + 1 }) ∧
    (code.toNat < 2 →
      ((nanos.toNat < 1000000 ∨ 2000000 < nanos.toNat) →
        exec (.conv .t16 code nanos) s = .next { s with
          resp := ⟨(Config.draw 16 s.draws).setWidth 32, 0⟩
          pc := s.pc + 1
          draws := s.draws + 1 }) ∧
      (1000000 ≤ nanos.toNat → nanos.toNat ≤ 2000000 →
        exec (.conv .t16 code nanos) s = .next { s with
          resp := ⟨BitVec.ofNat 32 (scale16 s.cfg.convOrder (if code = 0 then .ref else .alt) nanos.toNat), 0⟩
          pc := s.pc + 1 }))

/-- 41_converter.md R142: CONV on T16 in range completes with scale16 of the code's frequency, in either order of the
pre-division, with every 32-bit and 16-bit truncation. -/
def Obligations.ConvT16ScalesInRange : Prop :=
  ∀ (f : Freq) (nanos : Operand) (s : State), 1000000 ≤ nanos.toNat → nanos.toNat ≤ 2000000 →
    let code : BitVec 4 := match f with
      | .ref => 0
      | .alt => 1
    let x := (nanos.toNat - 1000000) % 2 ^ 32
    let r := outMax .t16 f - outMin .t16 f
    let q := match s.cfg.convOrder with
      | .scaleFirst => (x * (r / 10) % 2 ^ 32 / (1000000 / 10)) % 2 ^ 32
      | .inputFirst => (x / 10 * r % 2 ^ 32 / (1000000 / 10)) % 2 ^ 32
    exec (.conv .t16 code nanos) s = .next { s with
      resp := ⟨(BitVec.ofNat 16 (outMin .t16 f + q)).setWidth 32, 0⟩
      pc := s.pc + 1 }

/-- 41_converter.md R144: CONV on T8 completes with 125 + x · 126 div 1,000,000 in range, and with a draw out of range. -/
def Obligations.ConvT8ScalesInRange : Prop :=
  ∀ (nanos : Operand) (s : State),
    (1000000 ≤ nanos.toNat → nanos.toNat ≤ 2000000 →
      exec (.conv .t8 0 nanos) s = .next { s with
        resp := ⟨BitVec.ofNat 32 (125 + (nanos.toNat - 1000000) * 126 / 1000000), 0⟩
        pc := s.pc + 1 }) ∧
    ((nanos.toNat < 1000000 ∨ 2000000 < nanos.toNat) →
      exec (.conv .t8 0 nanos) s = .next { s with
        resp := ⟨(Config.draw 8 s.draws).setWidth 32, 0⟩
        pc := s.pc + 1
        draws := s.draws + 1 })

/-- 41_converter.md R146: out of range (with a supported code on T16), CONV completes with status OK and a W(P)-bit value
about which nothing is known, and changes nothing but RESP and pc (and the model's count of draws). -/
def Obligations.ConvOutOfRangeIsADraw : Prop :=
  ∀ (p : Periph) (code : BitVec 4) (nanos : Operand) (s : State),
    (p = .t16 ∧ code.toNat < 2 ∨ p = .t8 ∧ code = 0) → (nanos.toNat < 1000000 ∨ 2000000 < nanos.toNat) →
    exec (.conv p code nanos) s = .next { s with
      resp := ⟨(Config.draw p.width s.draws).setWidth 32, 0⟩
      pc := s.pc + 1
      draws := s.draws + 1 }

/-- 41_converter.md R147: on the range, for both peripherals, both frequencies and both orders, CONV maps the ends exactly,
is monotone and stays in [OutMin, OutMax]; so CONV of LIMIT of any duration stays there. -/
def Obligations.ConvLawsOnRange : Prop :=
  ∀ (p : Periph) (f : Freq) (code : BitVec 4) (s : State),
    (p = .t16 ∧ code = (match f with | .ref => 0 | .alt => 1) ∨ p = .t8 ∧ code = 0) →
    let conv : Operand → Option Nat := fun n => (s.respAfter (.conv p code n)).map (·.value.toNat)
    conv 1000000 = some (outMin p f) ∧ conv 2000000 = some (outMax p f) ∧
    (∀ x y : Operand, 1000000 ≤ x.toNat → x.toNat ≤ y.toNat → y.toNat ≤ 2000000 →
      ∃ a b, conv x = some a ∧ conv y = some b ∧ a ≤ b ∧ outMin p f ≤ a ∧ b ≤ outMax p f) ∧
    (∀ x : Operand, ∃ (l : Resp) (a : Nat), s.respAfter (.limit x) = some l ∧ conv l.value = some a ∧
      outMin p f ≤ a ∧ a ≤ outMax p f)

/-- The two orders of the pre-division differ by at most 1, and ScaleFirst is the larger (41_converter.md R148,
95_test_vectors.md V-CONV). -/
def Obligations.ConvOrdersDifferByAtMostOne : Prop :=
  ∀ (f : Freq) (n : Nat), 1000000 ≤ n → n ≤ 2000000 →
    scale16 .inputFirst f n ≤ scale16 .scaleFirst f n ∧ scale16 .scaleFirst f n ≤ scale16 .inputFirst f n + 1

/-! ## WR and RD -/

/-- WR completes exactly when the hardware is there and no running-write hazard arises: the written register takes the whole
value, or loses the flags whose bits are 1 if it is IFLG; every other register of both peripherals and every latch is
unchanged; RESP <- (0, OK) and pc <- pc + 1 (42_register_access.md R160, R161). -/
def Obligations.WrWritesOneRegister : Prop :=
  ∀ (p : Periph) (r : Reg) (v : Operand) (s : State), (Instr.wr p r v).wf = true → s.cfg.hasTimerHw = true →
    ((r = .ctrlA ∨ r = .iflg) → (s.timer p).cs = 0) →
    ∃ t, exec (.wr p r v) s = .next t ∧
      t.readReg p r = (if r = .iflg then s.readReg p r &&& ~~~v else v) ∧
      (∀ q r', q ≠ p ∨ r' ≠ r → t.regBits q r' = s.regBits q r') ∧
      (∀ q x, (t.timer q).oc x = (s.timer q).oc x) ∧
      t = { s with t16 := t.t16, per := t.per, t8 := t.t8, resp := ⟨0, 0⟩, pc := s.pc + 1 }

/-- 42_register_access.md R162: a WR of CTRLA or IFLG while CTRLB.CS ≠ 0 raises HAZARD_RUNNING_WRITE whatever CLKEN.EN is, and
changes nothing else; every other WR is no hazard and completes. -/
def Obligations.RunningWriteRaisesHazard : Prop :=
  ∀ (p : Periph) (r : Reg) (v : Operand) (s : State), (Instr.wr p r v).wf = true → s.cfg.hasTimerHw = true →
    ((r = .ctrlA ∨ r = .iflg) ∧ (s.timer p).cs ≠ 0 → exec (.wr p r v) s = .next { s with
      fault := some ⟨.hazardRunningWrite, s.pc, some (encode (.wr p r v)), .controller⟩ }) ∧
    (¬((r = .ctrlA ∨ r = .iflg) ∧ (s.timer p).cs ≠ 0) →
      ∃ t, exec (.wr p r v) s = .next t ∧ t.fault = s.fault ∧ t.pc = s.pc + 1)

/-- RD completes with the register, zero-extended, its reserved bits read as 0 (42_register_access.md R163, 10_state.md R30),
and changes nothing but RESP and pc: it has no side effect, reading IFLG clears nothing, and a second RD returns the same
value (42_register_access.md R164). -/
def Obligations.RdReadsRegister : Prop :=
  ∀ (p : Periph) (r : Reg) (s : State), r.presentOn p = true → s.cfg.hasTimerHw = true →
    let t := s.timer p
    let v : Operand := match r with
      | .ctrlA => (t.ctrlA &&& 0x07).setWidth 32
      | .ctrlB => (t.ctrlB &&& 0x07).setWidth 32
      | .cnt => t.cnt.setWidth 32
      | .per => s.per.setWidth 32
      | .cmpA => t.cmpA.setWidth 32
      | .cmpB => t.cmpB.setWidth 32
      | .imsk => (t.imsk &&& 0x03).setWidth 32
      | .iflg => (t.iflg &&& 0x03).setWidth 32
      | .dir => (t.dir &&& 0x03).setWidth 32
      | .clken => (t.clken &&& 0x01).setWidth 32
    exec (.rd p r) s = .next { s with resp := ⟨v, 0⟩, pc := s.pc + 1 } ∧
    exec (.rd p r) { s with resp := ⟨v, 0⟩, pc := s.pc + 1 } = .next { s with resp := ⟨v, 0⟩, pc := s.pc + 2 }

/-- What WR stores, RD returns: the whole register (20_memory.md R71). -/
def Obligations.RdAfterWrReturnsValue : Prop :=
  ∀ (p : Periph) (r : Reg) (v : Operand) (s : State), (Instr.wr p r v).wf = true → s.cfg.hasTimerHw = true →
    r ≠ .iflg → (r = .ctrlA → (s.timer p).cs = 0) →
    ∃ t u, exec (.wr p r v) s = .next t ∧ exec (.rd p r) t = .next u ∧ u.resp = ⟨v, 0⟩

/-- 42_register_access.md R165 and 60_exceptions.md R243: without the timer hardware every register-touching command raises
UNAVAILABLE, recording its word, before any effect. -/
def Obligations.UnavailableWithoutHardware : Prop :=
  ∀ (i : Instr) (s : State), i.wf = true → i.op ∈ [Op.wr, .rd, .prepare, .start, .pulse, .pulseA, .pulseB, .stop] →
    s.cfg.hasTimerHw = false →
    exec i s = .next { s with fault := some ⟨.unavailable, s.pc, some (encode i), .controller⟩ }

/-! ## Timer operations -/

/-- 43_timer_operations.md R182 and R183: the preparation micro-steps of both peripherals, in order. -/
def Obligations.PreparationSequences : Prop :=
  ∀ cfg : Config,
    prep cfg .t16 =
      [.w .t16 .ctrlB 0x00, .w .t16 .cnt 0xFFFF, .w .t16 .clken 0x01, .w .t16 .imsk 0x00, .w .t16 .iflg 0x03,
        .w .t16 .imsk 0x03, .w .t16 .per (match cfg.fCpu with | .ref => 32000 | .alt => 64000), .w .t16 .ctrlA 0x07] ∧
    prep cfg .t8 =
      [.w .t8 .ctrlB 0x00, .w .t8 .cnt 0xFF, .w .t8 .clken 0x01, .w .t8 .imsk 0x00, .w .t8 .iflg 0x03,
        .w .t8 .imsk 0x03, .w .t8 .cmpA 0xFF, .w .t8 .ctrlA 0x07]

/-- The step that decodes a composite command of several micro-steps executes the first, which stops the counter of P, and
leaves the rest in µq; nothing else changes (43_timer_operations.md R180, with the lists of R182 to R192). -/
def Obligations.CompositeExecutesFirstMicroStep : Prop :=
  ∀ (p : Periph) (a b : BitVec 16) (v : Operand) (s : State), s.cfg.hasTimerHw = true →
    let first : List MicroStep → State := fun rest =>
      { s.setTimer p { s.timer p with ctrlB := 0 } with uq := rest }
    exec (.prepare p) s = .next (first (prep s.cfg p).tail) ∧
    exec (.stop p) s = .next (first [.w p .ctrlA 0x00, .w p .clken 0x00]) ∧
    (a.toNat ≤ outMax p s.cfg.fCpu → b.toNat ≤ outMax p s.cfg.fCpu →
      exec (.pulse p a b) s = .next (first ((prep s.cfg p).tail ++
        [.w p .cmpA ((inv p s.cfg.fCpu a.toNat).setWidth 32), .w p .cmpB ((inv p s.cfg.fCpu b.toNat).setWidth 32),
          .dirOr p 0x03, .w p .ctrlB (csStartValue s.cfg p)]))) ∧
    (v.toNat ≤ outMax p s.cfg.fCpu →
      exec (.pulseA p v) s = .next (first ((prep s.cfg p).tail ++
        [.w p .cmpA ((inv p s.cfg.fCpu v.toNat).setWidth 32), .dirOr p 0x01, .w p .ctrlB (csStartValue s.cfg p)])) ∧
      exec (.pulseB p v) s = .next (first ((prep s.cfg p).tail ++
        [.w p .cmpB ((inv p s.cfg.fCpu v.toNat).setWidth 32), .dirOr p 0x02, .w p .ctrlB (csStartValue s.cfg p)])))

/-- PREPARE, executed with nothing interleaved, leaves exactly the registers of 43_timer_operations.md R184's example, at
either frequency: DIR and CMPB (and on T16 CMPA) keep their values, and so does the other peripheral. -/
def Obligations.PrepareConfiguresPeripheral : Prop :=
  ∀ s : State, s.live → s.cfg.hasTimerHw = true →
    s.runCommand (.prepare .t16) = .next { s with
      t16 := { s.t16 with ctrlA := 0x07, ctrlB := 0, cnt := 0xFFFF, clken := 1, imsk := 0x03, iflg := 0 }
      per := BitVec.ofNat 16 (outMax .t16 s.cfg.fCpu), uq := [], resp := ⟨0, 0⟩, pc := s.pc + 1 } ∧
    s.runCommand (.prepare .t8) = .next { s with
      t8 := { s.t8 with ctrlA := 0x07, ctrlB := 0, cnt := 0xFF, clken := 1, imsk := 0x03, iflg := 0, cmpA := 0xFF }
      uq := [], resp := ⟨0, 0⟩, pc := s.pc + 1 }

/-- 43_timer_operations.md R185: START completes in its one micro-step, writing CS_START(P, F_CPU) into CTRLB and nothing
else, whatever the phase. -/
def Obligations.StartWritesClockSelect : Prop :=
  ∀ (p : Periph) (s : State), s.cfg.hasTimerHw = true →
    exec (.start p) s = .next { s.setTimer p
        { s.timer p with ctrlB := BitVec.ofNat 8 ((s.cfg.csStart.get p).get s.cfg.fCpu).value } with
      uq := [], resp := ⟨0, 0⟩, pc := s.pc + 1 }

/-- PULSE, executed with nothing interleaved (43_timer_operations.md R187, R197): both compare registers hold the inverted
values, both pins are outputs, and the counter is started. -/
def Obligations.PulseLoadsBothChannels : Prop :=
  ∀ (a b : BitVec 16) (s : State), s.live → s.cfg.hasTimerHw = true →
    (a.toNat ≤ outMax .t16 s.cfg.fCpu → b.toNat ≤ outMax .t16 s.cfg.fCpu →
      s.runCommand (.pulse .t16 a b) = .next { s with
        t16 := { s.t16 with
          ctrlA := 0x07, ctrlB := BitVec.ofNat 8 (s.cfg.csStart.t16.get s.cfg.fCpu).value, cnt := 0xFFFF, clken := 1
          imsk := 0x03, iflg := 0, cmpA := BitVec.ofNat 16 (outMax .t16 s.cfg.fCpu - a.toNat)
          cmpB := BitVec.ofNat 16 (outMax .t16 s.cfg.fCpu - b.toNat), dir := 0x03 }
        per := BitVec.ofNat 16 (outMax .t16 s.cfg.fCpu), uq := [], resp := ⟨0, 0⟩, pc := s.pc + 1 }) ∧
    (a.toNat ≤ 251 → b.toNat ≤ 251 →
      s.runCommand (.pulse .t8 a b) = .next { s with
        t8 := { s.t8 with
          ctrlA := 0x07, ctrlB := BitVec.ofNat 8 (s.cfg.csStart.t8.get s.cfg.fCpu).value, cnt := 0xFF, clken := 1
          imsk := 0x03, iflg := 0, cmpA := BitVec.ofNat 8 (251 - a.toNat), cmpB := BitVec.ofNat 8 (251 - b.toNat)
          dir := 0x03 }
        uq := [], resp := ⟨0, 0⟩, pc := s.pc + 1 })

/-- PULSEA, executed with nothing interleaved (43_timer_operations.md R190, R197): CMPB and DIRB keep their values. -/
def Obligations.PulseALoadsChannelA : Prop :=
  ∀ (v : Operand) (s : State), s.live → s.cfg.hasTimerHw = true →
    (v.toNat ≤ outMax .t16 s.cfg.fCpu →
      s.runCommand (.pulseA .t16 v) = .next { s with
        t16 := { s.t16 with
          ctrlA := 0x07, ctrlB := BitVec.ofNat 8 (s.cfg.csStart.t16.get s.cfg.fCpu).value, cnt := 0xFFFF, clken := 1
          imsk := 0x03, iflg := 0, cmpA := BitVec.ofNat 16 (outMax .t16 s.cfg.fCpu - v.toNat)
          dir := (s.t16.dir ||| 0x01) &&& 0x03 }
        per := BitVec.ofNat 16 (outMax .t16 s.cfg.fCpu), uq := [], resp := ⟨0, 0⟩, pc := s.pc + 1 }) ∧
    (v.toNat ≤ 251 →
      s.runCommand (.pulseA .t8 v) = .next { s with
        t8 := { s.t8 with
          ctrlA := 0x07, ctrlB := BitVec.ofNat 8 (s.cfg.csStart.t8.get s.cfg.fCpu).value, cnt := 0xFF, clken := 1
          imsk := 0x03, iflg := 0, cmpA := BitVec.ofNat 8 (251 - v.toNat), dir := (s.t8.dir ||| 0x01) &&& 0x03 }
        uq := [], resp := ⟨0, 0⟩, pc := s.pc + 1 })

/-- PULSEB, executed with nothing interleaved (43_timer_operations.md R191, R197): CMPA keeps its value on T16 and is 0xFF on
T8; DIRA keeps its value. -/
def Obligations.PulseBLoadsChannelB : Prop :=
  ∀ (v : Operand) (s : State), s.live → s.cfg.hasTimerHw = true →
    (v.toNat ≤ outMax .t16 s.cfg.fCpu →
      s.runCommand (.pulseB .t16 v) = .next { s with
        t16 := { s.t16 with
          ctrlA := 0x07, ctrlB := BitVec.ofNat 8 (s.cfg.csStart.t16.get s.cfg.fCpu).value, cnt := 0xFFFF, clken := 1
          imsk := 0x03, iflg := 0, cmpB := BitVec.ofNat 16 (outMax .t16 s.cfg.fCpu - v.toNat)
          dir := (s.t16.dir ||| 0x02) &&& 0x03 }
        per := BitVec.ofNat 16 (outMax .t16 s.cfg.fCpu), uq := [], resp := ⟨0, 0⟩, pc := s.pc + 1 }) ∧
    (v.toNat ≤ 251 →
      s.runCommand (.pulseB .t8 v) = .next { s with
        t8 := { s.t8 with
          ctrlA := 0x07, ctrlB := BitVec.ofNat 8 (s.cfg.csStart.t8.get s.cfg.fCpu).value, cnt := 0xFF, clken := 1
          imsk := 0x03, iflg := 0, cmpA := 0xFF, cmpB := BitVec.ofNat 8 (251 - v.toNat)
          dir := (s.t8.dir ||| 0x02) &&& 0x03 }
        uq := [], resp := ⟨0, 0⟩, pc := s.pc + 1 })

/-- STOP, executed with nothing interleaved, clears both mode-control registers and closes the clock gate, and leaves DIR,
CMPA, CMPB, PER, CNT, IMSK, IFLG and the latches (43_timer_operations.md R192). -/
def Obligations.StopClearsModeRegisters : Prop :=
  ∀ (p : Periph) (s : State), s.live → s.cfg.hasTimerHw = true →
    s.runCommand (.stop p) = .next { s.setTimer p { s.timer p with ctrlA := 0, ctrlB := 0, clken := 0 } with
      uq := [], resp := ⟨0, 0⟩, pc := s.pc + 1 }

/-- 43_timer_operations.md R189: a raw value above OutMax(P, F_CPU) is refused with no other state change, and every value up
to OutMax, below OutMin too, is admitted. -/
def Obligations.PulseRangeRefusal : Prop :=
  ∀ (p : Periph) (a b : BitVec 16) (v : Operand) (s : State), s.cfg.hasTimerHw = true →
    ((Instr.pulse p a b).wf = true →
      ((outMax p s.cfg.fCpu < a.toNat ∨ outMax p s.cfg.fCpu < b.toNat) →
        exec (.pulse p a b) s = .next { s with refused := some ⟨.pulseRange, s.pc, encode (.pulse p a b)⟩ }) ∧
      (a.toNat ≤ outMax p s.cfg.fCpu → b.toNat ≤ outMax p s.cfg.fCpu →
        ∃ t, exec (.pulse p a b) s = .next t ∧ t.refused = s.refused ∧ t.fault = s.fault)) ∧
    ((Instr.pulseA p v).wf = true →
      (outMax p s.cfg.fCpu < v.toNat →
        exec (.pulseA p v) s = .next { s with refused := some ⟨.pulseRange, s.pc, encode (.pulseA p v)⟩ } ∧
        exec (.pulseB p v) s = .next { s with refused := some ⟨.pulseRange, s.pc, encode (.pulseB p v)⟩ }) ∧
      (v.toNat ≤ outMax p s.cfg.fCpu →
        (∃ t, exec (.pulseA p v) s = .next t ∧ t.refused = s.refused ∧ t.fault = s.fault) ∧
        ∃ t, exec (.pulseB p v) s = .next t ∧ t.refused = s.refused ∧ t.fault = s.fault))

/-- 43_timer_operations.md R188: for v ≤ OutMax the inversion does not wrap, and is OutMax − v: 32000 − v and 64000 − v on T16,
251 − v on T8. -/
def Obligations.InversionDoesNotWrap : Prop :=
  ∀ (p : Periph) (f : Freq) (v : Nat), v ≤ outMax p f →
    (inv p f v).toNat = outMax p f - v ∧ (inv p f v).toNat ≤ outMax p f ∧
    outMax p f = (match p, f with | .t16, .ref => 32000 | .t16, .alt => 64000 | .t8, _ => 251)

/-- 43_timer_operations.md R195: PULSE followed at once by STOP leaves both mode-control registers cleared and the clock gate
off, and DIR keeps 0x03. -/
def Obligations.PulseThenStopIsStopped : Prop :=
  ∀ (p : Periph) (a b : BitVec 16) (s : State), s.live → s.cfg.hasTimerHw = true →
    a.toNat ≤ outMax p s.cfg.fCpu → b.toNat ≤ outMax p s.cfg.fCpu →
    ∃ t u, s.runCommand (.pulse p a b) = .next t ∧ t.runCommand (.stop p) = .next u ∧
      (u.timer p).ctrlA = 0 ∧ (u.timer p).ctrlB = 0 ∧ (u.timer p).clken = 0 ∧ (u.timer p).dir = 0x03 ∧
      u.phase p = .stopped

/-- 43_timer_operations.md R186: the phase after each timer operation with nothing interleaved. -/
def Obligations.PhaseAfterEachOperation : Prop :=
  ∀ (p : Periph) (a b : BitVec 16) (v : Operand) (s : State), s.live → s.cfg.hasTimerHw = true →
    (∃ t, s.runCommand (.prepare p) = .next t ∧ t.phase p = .configured) ∧
    (s.phase p = .configured → ∃ t, s.runCommand (.start p) = .next t ∧ t.phase p = .running) ∧
    (a.toNat ≤ outMax p s.cfg.fCpu → b.toNat ≤ outMax p s.cfg.fCpu →
      ∃ t, s.runCommand (.pulse p a b) = .next t ∧ t.phase p = .running) ∧
    (v.toNat ≤ outMax p s.cfg.fCpu →
      (∃ t, s.runCommand (.pulseA p v) = .next t ∧ t.phase p = .running) ∧
      ∃ t, s.runCommand (.pulseB p v) = .next t ∧ t.phase p = .running) ∧
    ∃ t, s.runCommand (.stop p) = .next t ∧ t.phase p = .stopped

/-- Under EVERY interleaving of ticks and refreshes, PULSE, PULSEA or PULSEB that completes leaves the registers of
43_timer_operations.md R197: a pulsed compare register holds OutMax − v; the other one holds its value from before the command
or REFRESH_VALUE(P), or on T8, if it is CMPA, the pinned 0xFF; the latches are those of the first micro-step. `as` is the
interleaving from after the first micro-step to the first state in which pc has advanced. -/
def Obligations.PulseUnderEveryInterleaving : Prop :=
  ∀ (p : Periph) (cmd : Instr) (s s1 t : State) (as : List Agent),
    (∃ a b, cmd = .pulse p a b) ∨ (∃ v, cmd = .pulseA p v) ∨ (∃ v, cmd = .pulseB p v) →
    let pulsed : Channel → Option Nat := fun x => match cmd, x with
      | .pulse _ a _, .a => some a.toNat
      | .pulse _ _ b, .b => some b.toNat
      | .pulseA _ v, .a => some v.toNat
      | .pulseB _ v, .b => some v.toNat
      | _, _ => none
    let pins : Byte := match cmd with
      | .pulseA _ _ => 0x01
      | .pulseB _ _ => 0x02
      | _ => 0x03
    s.issues (encode cmd) → s.cfg.hasTimerHw = true → (∀ x v, pulsed x = some v → v ≤ outMax p s.cfg.fCpu) →
    exec cmd s = .next s1 → s1.after as = some t → t.pc ≠ s.pc →
    (∀ as' u, as' <+: as → as' ≠ as → s1.after as' = some u → u.pc = s.pc) →
    (t.timer p).ctrlA = 0x07 ∧
    (t.timer p).ctrlB = BitVec.ofNat 8 ((s.cfg.csStart.get p).get s.cfg.fCpu).value ∧
    (t.timer p).cnt = BitVec.allOnes p.width ∧ (t.timer p).clken = 0x01 ∧ (t.timer p).imsk = 0x03 ∧
    (t.timer p).iflg = 0x00 ∧ (p = .t16 → t.per = BitVec.ofNat 16 (outMax .t16 s.cfg.fCpu)) ∧
    (∀ x, match pulsed x with
      | some v => ((t.timer p).cmp x).toNat = outMax p s.cfg.fCpu - v
      | none =>
        if p = .t8 ∧ x = .a then (t.timer p).cmp x = BitVec.allOnes p.width
        else (t.timer p).cmp x = (s.timer p).cmp x ∨ (t.timer p).cmp x = s.refreshValue p) ∧
    (t.timer p).dir = ((s.timer p).dir ||| pins) &&& 0x03 ∧
    (∀ x, (t.timer p).oc x = (s.timer p).oc x) ∧
    t.resp = ⟨0, 0⟩ ∧ t.pc = s.pc + 1 ∧ t.uq = []

/-- 43_timer_operations.md R196: no composite command raises HAZARD_RUNNING_WRITE, under every interleaving, while it
executes; no pending W(CTRLA, ·) or W(IFLG, ·) meets CS ≠ 0. -/
def Obligations.CompositesNeverRaiseHazard : Prop :=
  ∀ (i : Instr) (s s1 t : State) (as : List Agent),
    i.op ∈ [Op.prepare, .start, .pulse, .pulseA, .pulseB, .stop] → s.live → s.uq = [] → exec i s = .next s1 →
    s1.after as = some t → t.pc = s.pc →
    (∀ r, t.fault = some r → r.code ≠ .hazardRunningWrite) ∧
    ∀ p r v rest, t.uq = .w p r v :: rest → (r = .ctrlA ∨ r = .iflg) → (t.timer p).cs = 0

/-! ## Counter, refresh, pins -/

/-- 44_counter_waveform.md R210: counter(P) has an enabled step exactly under these conditions. -/
def Obligations.TickEnabledExactlyWhenRunning : Prop :=
  ∀ (s : State) (p : Periph), s.enabled (.counter p) = true ↔
    s.cfg.hasTimerHw = true ∧ s.fault = none ∧ s.refused = none ∧ (s.timer p).clken.getLsbD 0 = true ∧
      (s.timer p).ctrlB &&& 0x07 ≠ 0

/-- 44_counter_waveform.md R211: in a mode the source does not describe the tick raises UNMODELLED_MODE instead of counting, and
changes nothing else. -/
def Obligations.UnmodelledModeRaisesFault : Prop :=
  ∀ (s : State) (p : Periph),
    ((∀ c ∈ s.cfg.csValid.get p, (s.timer p).ctrlB &&& 0x07 ≠ BitVec.ofNat 8 c.value) ∨
      (s.timer p).ctrlA.getLsbD 2 = false) →
    s.agentStep (.counter p) = .next { s with fault := some ⟨.unmodelledMode, s.pc, none, .counter p⟩ }

/-- 44_counter_waveform.md R212: a tick in a described mode: the count, the flags, the latches, and nothing else. TOP is PER on
T16 and 255 on T8. -/
def Obligations.TickCountsMatchesAndWraps : Prop :=
  ∀ (s : State) (p : Periph),
    (∃ c ∈ s.cfg.csValid.get p, (s.timer p).ctrlB &&& 0x07 = BitVec.ofNat 8 c.value) →
    (s.timer p).ctrlA.getLsbD 2 = true →
    let u := s.timer p
    let c := u.cnt.toNat
    let top := (match p with | .t16 => s.per.toNat | .t8 => 255)
    let hit : Channel → Prop := fun x => c ≤ top ∧ c = (u.cmp x).toNat
    let wrap : Prop := c = top ∨ c = p.max
    ∃ t, s.agentStep (.counter p) = .next t ∧
      t = s.setTimer p { u with
        cnt := (t.timer p).cnt, iflg := (t.timer p).iflg, ocA := (t.timer p).ocA, ocB := (t.timer p).ocB } ∧
      (wrap → (t.timer p).cnt.toNat = 0) ∧ (¬wrap → (t.timer p).cnt.toNat = c + 1) ∧
      (∀ x, ((t.timer p).ifl x = true ↔ u.ifl x = true ∨ hit x)) ∧
      (t.timer p).iflg &&& 0xFC = u.iflg &&& 0xFC ∧
      (∀ x, u.comEn x = false → (t.timer p).oc x = u.oc x) ∧
      (∀ x, u.comEn x = true → ((t.timer p).oc x = true ↔ ¬wrap ∧ (hit x ∨ u.oc x = true)))

/-- The period (44_counter_waveform.md section 2), over a run of steps of counter(P) alone: no other agent steps, so that TOP and
CMPx do not change and nothing is written. That a tick's pin is the one after it is the model's reading (log entry 21). From a count of 0 with the latch low, in a described mode with COMx_EN = 1 and no
agent but counter(P): after j ticks, j ≤ TOP, the count is j and the latch is high exactly when CMPx < j; the tick from TOP
wraps and clears the latch; TOP − CMPx of the states of the period are high, and so many of its TOP + 1 ticks show High on
the pin if it is an output; the flag is set by the tick from CMPx if CMPx ≤ TOP, and by none otherwise. -/
def Obligations.HighTimePerPeriod : Prop :=
  ∀ (s : State) (p : Periph) (x : Channel), s.modelledMode p = true → (s.timer p).comEn x = true →
    (s.timer p).cnt = 0 → (s.timer p).oc x = false →
    let top := (s.top p).toNat
    let k := ((s.timer p).cmp x).toNat
    let tick : Nat → Timer p.width := fun j => (s.ticks p j).timer p
    (∀ j, j ≤ top → (tick j).cnt.toNat = j ∧ ((tick j).oc x = true ↔ k < j)) ∧
    (tick (top + 1)).cnt = 0 ∧ (tick (top + 1)).oc x = false ∧
    (∀ j, j ≤ top + 1 → ((tick j).ifl x = true ↔ (s.timer p).ifl x = true ∨ (k < j ∧ k ≤ top))) ∧
    ((List.range (top + 1)).filter fun j => (tick j).oc x).length = top - k ∧
    ((s.timer p).dirBit x = true →
      highTicks p x (List.replicate (top + 1) (.counter p)) ((List.range (top + 1)).map fun j => s.ticks p (j + 1)) =
        top - k)

/-- One pulse per command under the eager schedule (44_counter_waveform.md R219, R222; 95_test_vectors.md): from the state a
pulse of v ≤ OutMax on channel x leaves (43_timer_operations.md R197), with no further command, the latch of x is high after
exactly v ticks on T16, in period 0 (after tick n for OutMax − v + 2 ≤ n ≤ OutMax + 1), and after exactly v + 4 ticks on T8
(253 − v ≤ n ≤ 256), and never again, under either REFRESH_VALUE. If the pin is an output, so many ticks show High on it,
however many ticks follow the first period (a tick's pin is the one after it, log entry 21). -/
def Obligations.OnePulsePerCommand : Prop :=
  ∀ (s : State) (p : Periph) (x : Channel) (v : Nat), s.live → s.cfg.hasTimerHw = true →
    s.modelledMode p = true → (s.timer p).ctrlA = 0x07 → (s.timer p).cnt = BitVec.allOnes p.width →
    (s.timer p).imsk = 0x03 → (s.timer p).iflg = 0x00 →
    (p = .t16 → s.per = BitVec.ofNat 16 (outMax .t16 s.cfg.fCpu)) →
    v ≤ outMax p s.cfg.fCpu → ((s.timer p).cmp x).toNat = outMax p s.cfg.fCpu - v →
    (∀ n, 1 ≤ n →
      (((s.eagerTicks p n).timer p).oc x = true ↔
        match p with
        | .t16 => outMax .t16 s.cfg.fCpu - v + 2 ≤ n ∧ n ≤ outMax .t16 s.cfg.fCpu + 1
        | .t8 => 253 - v ≤ n ∧ n ≤ 256)) ∧
    ((s.timer p).dirBit x = true → ∀ n, (s.top p).toNat + 1 ≤ n →
      highTicks p x (List.replicate n (.counter p)) ((List.range n).map fun j => s.eagerTicks p (j + 1)) =
        match p with
        | .t16 => v
        | .t8 => v + 4)

/-- 60_exceptions.md R252 (with R253): refresh(P, x) is enabled exactly under these conditions, and its step writes
REFRESH_VALUE(P) into CMPx, clears IFx, and changes nothing else. -/
def Obligations.RefreshResetsCompareAndFlag : Prop :=
  ∀ (s : State) (p : Periph) (x : Channel),
    (s.enabled (.refresh p x) = true ↔
      s.cfg.hasTimerHw = true ∧ s.fault = none ∧ s.refused = none ∧ (s.timer p).iflg.getLsbD x.bitNo = true ∧
        (s.timer p).imsk.getLsbD x.bitNo = true) ∧
    ∃ t, s.agentStep (.refresh p x) = .next t ∧
      ((t.timer p).cmp x).toNat = (match s.cfg.refreshSel.get p, p with
        | .max, _ => p.max
        | .top, .t16 => s.per.toNat
        | .top, .t8 => 255) ∧
      (t.timer p).iflg = (s.timer p).iflg &&& ~~~x.mask ∧
      t = s.setTimer p { (s.timer p).setCmp x ((t.timer p).cmp x) with iflg := (t.timer p).iflg }

/-- Pending refreshes may run in either order and reach the same state (60_exceptions.md R254). -/
def Obligations.RefreshesCommute : Prop :=
  ∀ (s : State) (p q : Periph) (x y : Channel), (p, x) ≠ (q, y) →
    s.enabled (.refresh p x) = true → s.enabled (.refresh q y) = true →
    ∃ t, s.after [.refresh p x, .refresh q y] = some t ∧ s.after [.refresh q y, .refresh p x] = some t

/-- A refresh of one peripheral and a counting tick of the other are independent: both orders reach the same state
(20_memory.md R85). -/
def Obligations.PeripheralsAreIndependent : Prop :=
  ∀ (s : State) (p q : Periph) (x : Channel), p ≠ q → s.modelledMode q = true →
    s.enabled (.refresh p x) = true → s.enabled (.counter q) = true →
    ∃ t, s.after [.refresh p x, .counter q] = some t ∧ s.after [.counter q, .refresh p x] = some t

/-- 10_state.md R53: which agent writes what. The controller moves no latch; counter(P) writes CNT, sets flags and moves the
latches of P only; refresh(P, x) writes CMPx and clears IFx of P only; no hardware agent writes PER, pc, µq or RESP. -/
def Obligations.AgentsWriteOnlyWhatTheyOwn : Prop :=
  ∀ s t : State,
    (s.agentStep .controller = .next t → ∀ p x, (t.timer p).oc x = (s.timer p).oc x) ∧
    (∀ p, s.agentStep (.counter p) = .next t →
      t = { s.setTimer p { s.timer p with
        cnt := (t.timer p).cnt, iflg := (t.timer p).iflg, ocA := (t.timer p).ocA, ocB := (t.timer p).ocB } with
          fault := t.fault } ∧
      ∀ i, (s.timer p).iflg.getLsbD i = true → (t.timer p).iflg.getLsbD i = true) ∧
    (∀ p x, s.agentStep (.refresh p x) = .next t →
      t = s.setTimer p { (s.timer p).setCmp x ((t.timer p).cmp x) with iflg := (t.timer p).iflg } ∧
      (∀ i, i ≠ x.bitNo → (t.timer p).iflg.getLsbD i = (s.timer p).iflg.getLsbD i) ∧
      (t.timer p).iflg.getLsbD x.bitNo = false)

/-- 44_counter_waveform.md R217: what a pin shows. -/
def Obligations.PinShowsLatchWhenConnected : Prop :=
  ∀ (s : State) (p : Periph) (x : Channel),
    s.pin p x =
      (if (s.timer p).dir.getLsbD x.bitNo = false then .hiZ
       else if (s.timer p).ctrlA.getLsbD x.bitNo = true then (if (s.timer p).oc x = true then .high else .low)
       else .ext)

/-- After the end of the program, in a weakly fair execution, every enabled refresh is served, unless a fault halts the block
first (70_reset_and_hazards.md R292, R294; 60_exceptions.md R252, R255). -/
def Obligations.FairExecutionServesRefresh : Prop :=
  ∀ (e : Execution) (p : Periph) (x : Channel) (n : Nat), e.Valid → e.WeaklyFair → (e.state n).atEnd = true →
    (e.state n).enabled (.refresh p x) = true →
    ∃ m, n ≤ m ∧ (e.agent m = some (.refresh p x) ∨ (e.state m).halted = true)
end

