-- ==== Sys2Proof/Laws/State.lean ====
section
/-! SUPPORT. One lemma per field and update of the state, true by unfolding the update once: what each named update leaves and
what it writes, so that no later proof unfolds a record update. -/

namespace Sys2Proof.Machine

section
variable (s : State)

/-! ### complete -/

@[simp] theorem complete_cfg (r : Resp) : (s.complete r).cfg = s.cfg := rfl
@[simp] theorem complete_program (r : Resp) : (s.complete r).program = s.program := rfl
@[simp] theorem complete_pc (r : Resp) : (s.complete r).pc = s.pc + 1 := rfl
@[simp] theorem complete_uq (r : Resp) : (s.complete r).uq = s.uq := rfl
@[simp] theorem complete_resp (r : Resp) : (s.complete r).resp = r := rfl
@[simp] theorem complete_fault (r : Resp) : (s.complete r).fault = s.fault := rfl
@[simp] theorem complete_refused (r : Resp) : (s.complete r).refused = s.refused := rfl
@[simp] theorem complete_t16 (r : Resp) : (s.complete r).t16 = s.t16 := rfl
@[simp] theorem complete_per (r : Resp) : (s.complete r).per = s.per := rfl
@[simp] theorem complete_t8 (r : Resp) : (s.complete r).t8 = s.t8 := rfl
@[simp] theorem complete_draws (r : Resp) : (s.complete r).draws = s.draws := rfl
@[simp] theorem complete_sched (r : Resp) : (s.complete r).sched = s.sched := rfl
@[simp] theorem complete_turn (r : Resp) : (s.complete r).turn = s.turn := rfl
@[simp] theorem complete_timer (r : Resp) (p : Periph) : (s.complete r).timer p = s.timer p := by cases p <;> rfl
@[simp] theorem complete_top (r : Resp) (p : Periph) : (s.complete r).top p = s.top p := by cases p <;> rfl

/-! ### raiseFault -/

@[simp] theorem raiseFault_cfg (c : FaultCode) (w : Option Word) (a : Agent) : (s.raiseFault c w a).cfg = s.cfg := rfl
@[simp] theorem raiseFault_program (c : FaultCode) (w : Option Word) (a : Agent) : (s.raiseFault c w a).program = s.program := rfl
@[simp] theorem raiseFault_pc (c : FaultCode) (w : Option Word) (a : Agent) : (s.raiseFault c w a).pc = s.pc := rfl
@[simp] theorem raiseFault_uq (c : FaultCode) (w : Option Word) (a : Agent) : (s.raiseFault c w a).uq = s.uq := rfl
@[simp] theorem raiseFault_resp (c : FaultCode) (w : Option Word) (a : Agent) : (s.raiseFault c w a).resp = s.resp := rfl
@[simp] theorem raiseFault_fault (c : FaultCode) (w : Option Word) (a : Agent) : (s.raiseFault c w a).fault = some ⟨c, s.pc, w, a⟩ := rfl
@[simp] theorem raiseFault_refused (c : FaultCode) (w : Option Word) (a : Agent) : (s.raiseFault c w a).refused = s.refused := rfl
@[simp] theorem raiseFault_t16 (c : FaultCode) (w : Option Word) (a : Agent) : (s.raiseFault c w a).t16 = s.t16 := rfl
@[simp] theorem raiseFault_per (c : FaultCode) (w : Option Word) (a : Agent) : (s.raiseFault c w a).per = s.per := rfl
@[simp] theorem raiseFault_t8 (c : FaultCode) (w : Option Word) (a : Agent) : (s.raiseFault c w a).t8 = s.t8 := rfl
@[simp] theorem raiseFault_draws (c : FaultCode) (w : Option Word) (a : Agent) : (s.raiseFault c w a).draws = s.draws := rfl
@[simp] theorem raiseFault_sched (c : FaultCode) (w : Option Word) (a : Agent) : (s.raiseFault c w a).sched = s.sched := rfl
@[simp] theorem raiseFault_turn (c : FaultCode) (w : Option Word) (a : Agent) : (s.raiseFault c w a).turn = s.turn := rfl
@[simp] theorem raiseFault_timer (c : FaultCode) (w : Option Word) (a : Agent) (p : Periph) : (s.raiseFault c w a).timer p = s.timer p := by cases p <;> rfl
@[simp] theorem raiseFault_top (c : FaultCode) (w : Option Word) (a : Agent) (p : Periph) : (s.raiseFault c w a).top p = s.top p := by cases p <;> rfl

/-! ### refuse -/

@[simp] theorem refuse_cfg (why : RefusalReason) (w : Word) : (s.refuse why w).cfg = s.cfg := rfl
@[simp] theorem refuse_program (why : RefusalReason) (w : Word) : (s.refuse why w).program = s.program := rfl
@[simp] theorem refuse_pc (why : RefusalReason) (w : Word) : (s.refuse why w).pc = s.pc := rfl
@[simp] theorem refuse_uq (why : RefusalReason) (w : Word) : (s.refuse why w).uq = s.uq := rfl
@[simp] theorem refuse_resp (why : RefusalReason) (w : Word) : (s.refuse why w).resp = s.resp := rfl
@[simp] theorem refuse_fault (why : RefusalReason) (w : Word) : (s.refuse why w).fault = s.fault := rfl
@[simp] theorem refuse_refused (why : RefusalReason) (w : Word) : (s.refuse why w).refused = some ⟨why, s.pc, w⟩ := rfl
@[simp] theorem refuse_t16 (why : RefusalReason) (w : Word) : (s.refuse why w).t16 = s.t16 := rfl
@[simp] theorem refuse_per (why : RefusalReason) (w : Word) : (s.refuse why w).per = s.per := rfl
@[simp] theorem refuse_t8 (why : RefusalReason) (w : Word) : (s.refuse why w).t8 = s.t8 := rfl
@[simp] theorem refuse_draws (why : RefusalReason) (w : Word) : (s.refuse why w).draws = s.draws := rfl
@[simp] theorem refuse_sched (why : RefusalReason) (w : Word) : (s.refuse why w).sched = s.sched := rfl
@[simp] theorem refuse_turn (why : RefusalReason) (w : Word) : (s.refuse why w).turn = s.turn := rfl
@[simp] theorem refuse_timer (why : RefusalReason) (w : Word) (p : Periph) : (s.refuse why w).timer p = s.timer p := by cases p <;> rfl
@[simp] theorem refuse_top (why : RefusalReason) (w : Word) (p : Periph) : (s.refuse why w).top p = s.top p := by cases p <;> rfl

/-! ### afterDraw -/

@[simp] theorem afterDraw_cfg : s.afterDraw.cfg = s.cfg := rfl
@[simp] theorem afterDraw_program : s.afterDraw.program = s.program := rfl
@[simp] theorem afterDraw_pc : s.afterDraw.pc = s.pc := rfl
@[simp] theorem afterDraw_uq : s.afterDraw.uq = s.uq := rfl
@[simp] theorem afterDraw_resp : s.afterDraw.resp = s.resp := rfl
@[simp] theorem afterDraw_fault : s.afterDraw.fault = s.fault := rfl
@[simp] theorem afterDraw_refused : s.afterDraw.refused = s.refused := rfl
@[simp] theorem afterDraw_t16 : s.afterDraw.t16 = s.t16 := rfl
@[simp] theorem afterDraw_per : s.afterDraw.per = s.per := rfl
@[simp] theorem afterDraw_t8 : s.afterDraw.t8 = s.t8 := rfl
@[simp] theorem afterDraw_draws : s.afterDraw.draws = s.draws + 1 := rfl
@[simp] theorem afterDraw_sched : s.afterDraw.sched = s.sched := rfl
@[simp] theorem afterDraw_turn : s.afterDraw.turn = s.turn := rfl
@[simp] theorem afterDraw_timer (p : Periph) : s.afterDraw.timer p = s.timer p := by cases p <;> rfl
@[simp] theorem afterDraw_top (p : Periph) : s.afterDraw.top p = s.top p := by cases p <;> rfl

/-! ### setQueue -/

@[simp] theorem setQueue_cfg (q : List MicroStep) : (s.setQueue q).cfg = s.cfg := rfl
@[simp] theorem setQueue_program (q : List MicroStep) : (s.setQueue q).program = s.program := rfl
@[simp] theorem setQueue_pc (q : List MicroStep) : (s.setQueue q).pc = s.pc := rfl
@[simp] theorem setQueue_uq (q : List MicroStep) : (s.setQueue q).uq = q := rfl
@[simp] theorem setQueue_resp (q : List MicroStep) : (s.setQueue q).resp = s.resp := rfl
@[simp] theorem setQueue_fault (q : List MicroStep) : (s.setQueue q).fault = s.fault := rfl
@[simp] theorem setQueue_refused (q : List MicroStep) : (s.setQueue q).refused = s.refused := rfl
@[simp] theorem setQueue_t16 (q : List MicroStep) : (s.setQueue q).t16 = s.t16 := rfl
@[simp] theorem setQueue_per (q : List MicroStep) : (s.setQueue q).per = s.per := rfl
@[simp] theorem setQueue_t8 (q : List MicroStep) : (s.setQueue q).t8 = s.t8 := rfl
@[simp] theorem setQueue_draws (q : List MicroStep) : (s.setQueue q).draws = s.draws := rfl
@[simp] theorem setQueue_sched (q : List MicroStep) : (s.setQueue q).sched = s.sched := rfl
@[simp] theorem setQueue_turn (q : List MicroStep) : (s.setQueue q).turn = s.turn := rfl
@[simp] theorem setQueue_timer (q : List MicroStep) (p : Periph) : (s.setQueue q).timer p = s.timer p := by cases p <;> rfl
@[simp] theorem setQueue_top (q : List MicroStep) (p : Periph) : (s.setQueue q).top p = s.top p := by cases p <;> rfl

/-! ### setSchedule -/

@[simp] theorem setSchedule_cfg (sc : List Agent) (n : Nat) : (s.setSchedule sc n).cfg = s.cfg := rfl
@[simp] theorem setSchedule_program (sc : List Agent) (n : Nat) : (s.setSchedule sc n).program = s.program := rfl
@[simp] theorem setSchedule_pc (sc : List Agent) (n : Nat) : (s.setSchedule sc n).pc = s.pc := rfl
@[simp] theorem setSchedule_uq (sc : List Agent) (n : Nat) : (s.setSchedule sc n).uq = s.uq := rfl
@[simp] theorem setSchedule_resp (sc : List Agent) (n : Nat) : (s.setSchedule sc n).resp = s.resp := rfl
@[simp] theorem setSchedule_fault (sc : List Agent) (n : Nat) : (s.setSchedule sc n).fault = s.fault := rfl
@[simp] theorem setSchedule_refused (sc : List Agent) (n : Nat) : (s.setSchedule sc n).refused = s.refused := rfl
@[simp] theorem setSchedule_t16 (sc : List Agent) (n : Nat) : (s.setSchedule sc n).t16 = s.t16 := rfl
@[simp] theorem setSchedule_per (sc : List Agent) (n : Nat) : (s.setSchedule sc n).per = s.per := rfl
@[simp] theorem setSchedule_t8 (sc : List Agent) (n : Nat) : (s.setSchedule sc n).t8 = s.t8 := rfl
@[simp] theorem setSchedule_draws (sc : List Agent) (n : Nat) : (s.setSchedule sc n).draws = s.draws := rfl
@[simp] theorem setSchedule_sched (sc : List Agent) (n : Nat) : (s.setSchedule sc n).sched = sc := rfl
@[simp] theorem setSchedule_turn (sc : List Agent) (n : Nat) : (s.setSchedule sc n).turn = n := rfl
@[simp] theorem setSchedule_timer (sc : List Agent) (n : Nat) (p : Periph) : (s.setSchedule sc n).timer p = s.timer p := by cases p <;> rfl
@[simp] theorem setSchedule_top (sc : List Agent) (n : Nat) (p : Periph) : (s.setSchedule sc n).top p = s.top p := by cases p <;> rfl

/-! ### setTimer -/

@[simp] theorem setTimer_cfg (p : Periph) (t : Timer p.width) : (s.setTimer p t).cfg = s.cfg := by
  cases p <;> rfl
@[simp] theorem setTimer_program (p : Periph) (t : Timer p.width) : (s.setTimer p t).program = s.program := by
  cases p <;> rfl
@[simp] theorem setTimer_pc (p : Periph) (t : Timer p.width) : (s.setTimer p t).pc = s.pc := by
  cases p <;> rfl
@[simp] theorem setTimer_uq (p : Periph) (t : Timer p.width) : (s.setTimer p t).uq = s.uq := by
  cases p <;> rfl
@[simp] theorem setTimer_resp (p : Periph) (t : Timer p.width) : (s.setTimer p t).resp = s.resp := by
  cases p <;> rfl
@[simp] theorem setTimer_fault (p : Periph) (t : Timer p.width) : (s.setTimer p t).fault = s.fault := by
  cases p <;> rfl
@[simp] theorem setTimer_refused (p : Periph) (t : Timer p.width) : (s.setTimer p t).refused = s.refused := by
  cases p <;> rfl
@[simp] theorem setTimer_per (p : Periph) (t : Timer p.width) : (s.setTimer p t).per = s.per := by
  cases p <;> rfl
@[simp] theorem setTimer_draws (p : Periph) (t : Timer p.width) : (s.setTimer p t).draws = s.draws := by
  cases p <;> rfl
@[simp] theorem setTimer_sched (p : Periph) (t : Timer p.width) : (s.setTimer p t).sched = s.sched := by
  cases p <;> rfl
@[simp] theorem setTimer_turn (p : Periph) (t : Timer p.width) : (s.setTimer p t).turn = s.turn := by
  cases p <;> rfl
@[simp] theorem setTimer_top (p q : Periph) (t : Timer p.width) : (s.setTimer p t).top q = s.top q := by
  cases p <;> cases q <;> rfl
@[simp] theorem setTimer_timer (p : Periph) (t : Timer p.width) : (s.setTimer p t).timer p = t := by
  cases p <;> rfl
theorem setTimer_timer_ne (p q : Periph) (t : Timer p.width) (h : q ≠ p) : (s.setTimer p t).timer q = s.timer q := by
  cases p <;> cases q <;> first | rfl | exact absurd rfl h
@[simp] theorem setTimer_self (p : Periph) : s.setTimer p (s.timer p) = s := by cases p <;> rfl
@[simp] theorem setTimer_setTimer (p : Periph) (t u : Timer p.width) : (s.setTimer p t).setTimer p u = s.setTimer p u := by
  cases p <;> rfl
theorem setTimer_comm (p q : Periph) (t : Timer p.width) (u : Timer q.width) (h : q ≠ p) :
    (s.setTimer p t).setTimer q u = (s.setTimer q u).setTimer p t := by
  cases p <;> cases q <;> first | rfl | exact absurd rfl h

/-! ### setCmp -/

section
variable {w : Nat} (t : Timer w) (x : Channel) (v : BitVec w)

@[simp] theorem setCmp_ctrlA : (t.setCmp x v).ctrlA = t.ctrlA := by cases x <;> rfl
@[simp] theorem setCmp_ctrlB : (t.setCmp x v).ctrlB = t.ctrlB := by cases x <;> rfl
@[simp] theorem setCmp_cnt : (t.setCmp x v).cnt = t.cnt := by cases x <;> rfl
@[simp] theorem setCmp_imsk : (t.setCmp x v).imsk = t.imsk := by cases x <;> rfl
@[simp] theorem setCmp_iflg : (t.setCmp x v).iflg = t.iflg := by cases x <;> rfl
@[simp] theorem setCmp_dir : (t.setCmp x v).dir = t.dir := by cases x <;> rfl
@[simp] theorem setCmp_clken : (t.setCmp x v).clken = t.clken := by cases x <;> rfl
@[simp] theorem setCmp_ocA : (t.setCmp x v).ocA = t.ocA := by cases x <;> rfl
@[simp] theorem setCmp_ocB : (t.setCmp x v).ocB = t.ocB := by cases x <;> rfl
@[simp] theorem setCmp_cmp : (t.setCmp x v).cmp x = v := by cases x <;> rfl
theorem setCmp_cmp_ne (y : Channel) (h : y ≠ x) : (t.setCmp x v).cmp y = t.cmp y := by
  cases x <;> cases y <;> first | rfl | exact absurd rfl h

end

/-! ### refreshStep and counterStep: everything but the timer of P -/

@[simp] theorem refreshStep_cfg (p : Periph) (x : Channel) : (s.refreshStep p x).cfg = s.cfg := by
  simp [State.refreshStep]
@[simp] theorem refreshStep_program (p : Periph) (x : Channel) : (s.refreshStep p x).program = s.program := by
  simp [State.refreshStep]
@[simp] theorem refreshStep_pc (p : Periph) (x : Channel) : (s.refreshStep p x).pc = s.pc := by
  simp [State.refreshStep]
@[simp] theorem refreshStep_uq (p : Periph) (x : Channel) : (s.refreshStep p x).uq = s.uq := by
  simp [State.refreshStep]
@[simp] theorem refreshStep_resp (p : Periph) (x : Channel) : (s.refreshStep p x).resp = s.resp := by
  simp [State.refreshStep]
@[simp] theorem refreshStep_fault (p : Periph) (x : Channel) : (s.refreshStep p x).fault = s.fault := by
  simp [State.refreshStep]
@[simp] theorem refreshStep_refused (p : Periph) (x : Channel) : (s.refreshStep p x).refused = s.refused := by
  simp [State.refreshStep]
@[simp] theorem refreshStep_per (p : Periph) (x : Channel) : (s.refreshStep p x).per = s.per := by
  simp [State.refreshStep]
@[simp] theorem refreshStep_draws (p : Periph) (x : Channel) : (s.refreshStep p x).draws = s.draws := by
  simp [State.refreshStep]
@[simp] theorem refreshStep_sched (p : Periph) (x : Channel) : (s.refreshStep p x).sched = s.sched := by
  simp [State.refreshStep]
@[simp] theorem refreshStep_turn (p : Periph) (x : Channel) : (s.refreshStep p x).turn = s.turn := by
  simp [State.refreshStep]
@[simp] theorem refreshStep_top (p q : Periph) (x : Channel) : (s.refreshStep p x).top q = s.top q := by
  simp [State.refreshStep]
@[simp] theorem refreshStep_timer (p : Periph) (x : Channel) :
    (s.refreshStep p x).timer p =
      { (s.timer p).setCmp x (s.refreshValue p) with iflg := (s.timer p).iflg &&& ~~~x.mask } := by
  simp [State.refreshStep]
theorem refreshStep_timer_ne (p q : Periph) (x : Channel) (h : q ≠ p) :
    (s.refreshStep p x).timer q = s.timer q := by
  simp [State.refreshStep, setTimer_timer_ne _ _ _ _ h]

@[simp] theorem counterStep_cfg (p : Periph) : (s.counterStep p).cfg = s.cfg := by
  unfold State.counterStep; split <;> simp
@[simp] theorem counterStep_program (p : Periph) : (s.counterStep p).program = s.program := by
  unfold State.counterStep; split <;> simp
@[simp] theorem counterStep_pc (p : Periph) : (s.counterStep p).pc = s.pc := by
  unfold State.counterStep; split <;> simp
@[simp] theorem counterStep_uq (p : Periph) : (s.counterStep p).uq = s.uq := by
  unfold State.counterStep; split <;> simp
@[simp] theorem counterStep_resp (p : Periph) : (s.counterStep p).resp = s.resp := by
  unfold State.counterStep; split <;> simp
@[simp] theorem counterStep_refused (p : Periph) : (s.counterStep p).refused = s.refused := by
  unfold State.counterStep; split <;> simp
@[simp] theorem counterStep_per (p : Periph) : (s.counterStep p).per = s.per := by
  unfold State.counterStep; split <;> simp
@[simp] theorem counterStep_draws (p : Periph) : (s.counterStep p).draws = s.draws := by
  unfold State.counterStep; split <;> simp
@[simp] theorem counterStep_sched (p : Periph) : (s.counterStep p).sched = s.sched := by
  unfold State.counterStep; split <;> simp
@[simp] theorem counterStep_turn (p : Periph) : (s.counterStep p).turn = s.turn := by
  unfold State.counterStep; split <;> simp
@[simp] theorem counterStep_top (p q : Periph) : (s.counterStep p).top q = s.top q := by
  unfold State.counterStep; split <;> simp
theorem counterStep_timer_ne (p q : Periph) (h : q ≠ p) : (s.counterStep p).timer q = s.timer q := by
  unfold State.counterStep; split <;> simp [setTimer_timer_ne _ _ _ _ h]

end

end Sys2Proof.Machine
end

