-- ==== Sys2Proof/Laws/Registers.lean ====
section
/-! SUPPORT. What reading and writing a register does (42_register_access.md R161, R163; 20_memory.md R71): the frame of the
write effect, and a read after a write. -/

namespace Sys2Proof.Machine

section
variable (s : State) (p : Periph) (r : Reg) (v : Operand)

/-! ### What a write leaves -/

@[simp] theorem writeReg_cfg : (s.writeReg p r v).cfg = s.cfg := by
  cases r <;> cases p <;> rfl
@[simp] theorem writeReg_program : (s.writeReg p r v).program = s.program := by
  cases r <;> cases p <;> rfl
@[simp] theorem writeReg_pc : (s.writeReg p r v).pc = s.pc := by
  cases r <;> cases p <;> rfl
@[simp] theorem writeReg_uq : (s.writeReg p r v).uq = s.uq := by
  cases r <;> cases p <;> rfl
@[simp] theorem writeReg_resp : (s.writeReg p r v).resp = s.resp := by
  cases r <;> cases p <;> rfl
@[simp] theorem writeReg_fault : (s.writeReg p r v).fault = s.fault := by
  cases r <;> cases p <;> rfl
@[simp] theorem writeReg_refused : (s.writeReg p r v).refused = s.refused := by
  cases r <;> cases p <;> rfl
@[simp] theorem writeReg_draws : (s.writeReg p r v).draws = s.draws := by
  cases r <;> cases p <;> rfl
@[simp] theorem writeReg_sched : (s.writeReg p r v).sched = s.sched := by
  cases r <;> cases p <;> rfl
@[simp] theorem writeReg_turn : (s.writeReg p r v).turn = s.turn := by
  cases r <;> cases p <;> rfl
theorem writeReg_per_ne (h : r ≠ .per) : (s.writeReg p r v).per = s.per := by
  cases r <;> cases p <;> first | rfl | exact absurd rfl h
theorem writeReg_timer_ne (q : Periph) (h : q ≠ p) : (s.writeReg p r v).timer q = s.timer q := by
  cases r <;> cases p <;> cases q <;> first | rfl | exact absurd rfl h
@[simp] theorem writeReg_ocA (q : Periph) : ((s.writeReg p r v).timer q).ocA = (s.timer q).ocA := by
  cases r <;> cases p <;> cases q <;> rfl
@[simp] theorem writeReg_ocB (q : Periph) : ((s.writeReg p r v).timer q).ocB = (s.timer q).ocB := by
  cases r <;> cases p <;> cases q <;> rfl

/-- A write of one register leaves the reading of every other register, and of the other peripheral. -/
theorem readReg_writeReg_ne (q : Periph) (r' : Reg) (h : q ≠ p ∨ r' ≠ r) :
    (s.writeReg p r v).readReg q r' = s.readReg q r' := by
  cases r <;> cases p <;> cases q <;> cases r' <;>
    first
    | rfl
    | (rcases h with h | h <;> exact absurd rfl h)

/-! ### What is read after a write -/

/-- A value with no bit outside a mask is its own part under the mask. -/
theorem and_mask_of_fits {m : Operand} (h : v &&& ~~~m = 0) : v &&& m = v := by
  ext i hi
  have hb : (v &&& ~~~m).getLsbD i = false := by rw [h]; exact BitVec.getLsbD_zero
  rw [BitVec.getLsbD_eq_getElem hi, BitVec.getElem_and, BitVec.getElem_not] at hb
  rw [BitVec.getElem_and]
  revert hb
  cases v[i] <;> cases m[i] <;> decide

/-- A value under a mask below 2^k survives being cut to k bits. -/
theorem setWidth_setWidth_of_mask {v m : Operand} (k : Nat) (h : v &&& m = v) (hk : m.toNat < 2 ^ k) :
    (v.setWidth k).setWidth 32 = v := by
  have hle : v.toNat ≤ m.toNat := by
    rw [← h, BitVec.toNat_and]; exact Nat.and_le_right
  apply BitVec.eq_of_toNat_eq
  rw [BitVec.toNat_setWidth, BitVec.toNat_setWidth, Nat.mod_eq_of_lt (a := v.toNat) (by omega),
    Nat.mod_eq_of_lt v.isLt]

/-- A value that fits a register is read back from it (not from IFLG, which is write-one-to-clear). -/
theorem readReg_writeReg_same (hp : r.presentOn p = true) (hv : r.fits p v = true) (hr : r ≠ .iflg) :
    (s.writeReg p r v).readReg p r = v := by
  have hm : v &&& r.widthMask p = v := and_mask_of_fits v (by simpa [Reg.fits] using hv)
  cases r <;> cases p <;>
    first
    | exact absurd rfl hr
    | exact absurd hp (by decide)
    | (simp only [State.writeReg, State.readReg, State.regBits, setTimer_timer, hm]
       rw [setWidth_setWidth_of_mask _ hm (by decide), hm])

/-- A write of IFLG clears the flags whose bits are 1 and sets none. -/
theorem readReg_writeReg_iflg :
    (s.writeReg p .iflg v).readReg p .iflg = s.readReg p .iflg &&& ~~~v := by
  simp only [State.writeReg, State.readReg, State.regBits, setTimer_timer, clearFlags, Reg.widthMask]
  ext i hi
  interval_cases i <;> simp

end

end Sys2Proof.Machine
end

