-- ==== Sys2Proof/Laws/Execution.lean ====
section
/-! SUPPORT. What the shared operations of a command can do, said once: a micro-step, the checks, a composite command, and
`exec` as a whole, which always answers a next state. -/

namespace Sys2Proof.Machine

section
variable (s : State)

/-! ### Micro-steps -/

section
variable (m : MicroStep)

@[simp] theorem effect_cfg : (m.effect s).cfg = s.cfg := by cases m <;> simp [MicroStep.effect]
@[simp] theorem effect_program : (m.effect s).program = s.program := by cases m <;> simp [MicroStep.effect]
@[simp] theorem effect_pc : (m.effect s).pc = s.pc := by cases m <;> simp [MicroStep.effect]
@[simp] theorem effect_uq : (m.effect s).uq = s.uq := by cases m <;> simp [MicroStep.effect]
@[simp] theorem effect_resp : (m.effect s).resp = s.resp := by cases m <;> simp [MicroStep.effect]
@[simp] theorem effect_fault : (m.effect s).fault = s.fault := by cases m <;> simp [MicroStep.effect]
@[simp] theorem effect_refused : (m.effect s).refused = s.refused := by cases m <;> simp [MicroStep.effect]
@[simp] theorem effect_draws : (m.effect s).draws = s.draws := by cases m <;> simp [MicroStep.effect]
@[simp] theorem effect_sched : (m.effect s).sched = s.sched := by cases m <;> simp [MicroStep.effect]
@[simp] theorem effect_turn : (m.effect s).turn = s.turn := by cases m <;> simp [MicroStep.effect]
@[simp] theorem effect_ocA (p : Periph) : ((m.effect s).timer p).ocA = (s.timer p).ocA := by
  cases m <;> simp [MicroStep.effect]
@[simp] theorem effect_ocB (p : Periph) : ((m.effect s).timer p).ocB = (s.timer p).ocB := by
  cases m <;> simp [MicroStep.effect]

end

/-- Everything executing the first of some micro-steps can do: raise the hazard fault; take the micro-step's effect and leave
the rest in µq; or take the last one's effect and complete the command. -/
theorem runMicro_cases (w : Option Word) (m : MicroStep) (rest : List MicroStep) :
    (m.hazard s = true ∧ s.runMicro w (m :: rest) = s.raiseFault .hazardRunningWrite w .controller) ∨
    (m.hazard s = false ∧ rest ≠ [] ∧ s.runMicro w (m :: rest) = (m.effect s).setQueue rest) ∨
    (m.hazard s = false ∧ rest = [] ∧
      s.runMicro w (m :: rest) = ((m.effect s).setQueue []).complete ⟨0, statusOk⟩) := by
  unfold State.runMicro
  cases hm : m.hazard s <;> cases rest <;> simp [hm]

/-! ### Checks -/

/-- The checks of a register-touching command that pass. -/
theorem checked_pass {i : Instr} {p : Periph} {vs : List Nat} {run : State} (hwf : i.wf = true)
    (hw : s.cfg.hasTimerHw = true) (hv : vs.all (inPulseRange p s.cfg.fCpu) = true) :
    s.checked i p vs run = run := by
  simp [State.checked, State.legal, hwf, hw, hv]

/-- Everything the checks of a register-touching command can do. -/
theorem checked_cases (i : Instr) (p : Periph) (vs : List Nat) (run : State) :
    s.checked i p vs run = s.raiseFault .illegalCommand (some (encode i)) .controller ∨
    s.checked i p vs run = s.raiseFault .unavailable (some (encode i)) .controller ∨
    s.checked i p vs run = s.refuse .pulseRange (encode i) ∨
    (s.cfg.hasTimerHw = true ∧ s.checked i p vs run = run) := by
  unfold State.checked State.legal
  split
  · exact .inl rfl
  · cases hw : s.cfg.hasTimerHw
    · simp
    · simp only [Bool.true_eq_false, if_false]
      split <;> simp

/-! ### exec -/

/-- The controller's execution of a command always answers a next state. -/
theorem exec_next (i : Instr) : ∃ t, exec i s = .next t := by
  cases i <;> exact ⟨_, rfl⟩

end

end Sys2Proof.Machine
end

