-- ==== Sys2Proof/Laws/Agents.lean ====
section
/-! SUPPORT. What the choice of an agent and a step of the machine can do, said once (20_memory.md R79, 60_exceptions.md
R248). -/

namespace Sys2Proof.Machine

section
variable (s : State)

/-! ### Enabledness reads neither the interleaving nor the counter of choices -/

@[simp] theorem enabled_setSchedule (sc : List Agent) (n : Nat) (a : Agent) :
    (s.setSchedule sc n).enabled a = s.enabled a := by
  cases a with
  | controller => rfl
  | counter p => cases p <;> rfl
  | refresh p x => cases p <;> rfl

theorem sameButSchedule_enabled {s t : State} (h : s.sameButSchedule t) (a : Agent) : t.enabled a = s.enabled a := by
  unfold State.sameButSchedule at h; rw [← h]; exact enabled_setSchedule s _ _ a

theorem mem_all (a : Agent) : a ∈ Agent.all := by
  cases a with
  | controller => decide
  | counter p => cases p <;> decide
  | refresh p x => cases p <;> cases x <;> decide

@[simp] theorem mem_enabledAgents (a : Agent) : a ∈ s.enabledAgents ↔ s.enabled a = true := by
  simp [State.enabledAgents, mem_all]

/-- A halted state enables no agent. -/
theorem enabled_live {a : Agent} (h : s.enabled a = true) : s.halted = false := by
  cases a <;> simp_all [State.enabled]

/-! ### The choice -/

/-- Everything the choice of an agent can do: the agent chosen is enabled, and the state differs in the schedule alone. -/
theorem choose_spec {a : Agent} {t : State} (h : s.choose = some (a, t)) :
    s.enabled a = true ∧ s.sameButSchedule t := by
  unfold State.choose at h
  split at h
  · next b rest hd =>
    obtain ⟨rfl, rfl⟩ := by simpa using h
    refine ⟨?_, rfl⟩
    have := List.head?_dropWhile_not (fun a => !s.enabled a) s.sched
    rw [hd] at this
    simpa using this
  · split at h
    · cases h
    · next b hb =>
      obtain ⟨rfl, rfl⟩ := by simpa using h
      exact ⟨(mem_enabledAgents s b).1 (by simp [hb]), rfl⟩
    · next b c rest hb =>
      obtain ⟨rfl, rfl⟩ := by simpa using h
      refine ⟨(mem_enabledAgents s _).1 ?_, rfl⟩
      rw [hb]
      have hlt := Nat.mod_lt (Config.freeChoice s.turn) (show 0 < rest.length + 2 by omega)
      rw [List.getElem?_eq_getElem (by simp; omega)]
      exact List.getElem_mem _

/-- There is a choice exactly when some agent is enabled. -/
theorem choose_none : s.choose = none ↔ ∀ a, s.enabled a = false := by
  unfold State.choose
  constructor
  · intro h a
    split at h
    · cases h
    · split at h
      · next he =>
        cases hx : s.enabled a
        · rfl
        · have := (mem_enabledAgents s a).2 hx
          rw [he] at this; cases this
      · cases h
      · cases h
  · intro h
    have hd : s.sched.dropWhile (fun a => !s.enabled a) = [] := by
      rw [List.dropWhile_eq_nil_iff]; intro a _; simp [h a]
    have he : s.enabledAgents = [] := by
      rw [List.eq_nil_iff_forall_not_mem]; intro a; simp [h a]
    rw [hd, he]

/-- The interleaving decides: its first agent moves if it is enabled. -/
theorem choose_sched {a : Agent} {rest : List Agent} (hs : s.sched = a :: rest) (ha : s.enabled a = true) :
    s.choose = some (a, s.setSchedule rest s.turn) := by
  simp [State.choose, hs, ha]

/-! ### The step -/

/-- Everything a step that answers a next state can do: nothing has halted, and the chosen agent, which is enabled, takes its
step. -/
theorem step_cases {t : State} (h : step s = .next t) :
    s.live ∧ ∃ a s', s.choose = some (a, s') ∧ s.enabled a = true ∧ s.sameButSchedule s' ∧ s'.agentStep a = .next t := by
  unfold step State.stepChosen at h
  split at h
  · cases h
  · cases h
  · next hf hr =>
    refine ⟨⟨hf, hr⟩, ?_⟩
    split at h
    · next a s' hc => exact ⟨a, s', hc, (choose_spec s hc).1, (choose_spec s hc).2, h⟩
    · cases h

/-- The step of an unhalted state is the chosen agent's. -/
theorem step_of_choose {a : Agent} {s' : State} (hl : s.live) (hc : s.choose = some (a, s')) :
    step s = s'.agentStep a := by
  unfold step State.stepChosen
  rw [hl.1, hl.2, hc]

end

end Sys2Proof.Machine
end

