-- ==== Sys2Proof/Laws/Counter.lean ====
section
/-! SUPPORT. What a tick leaves and what it writes, one lemma per register (44_counter_waveform.md R212). -/

namespace Sys2Proof.Machine

section
variable {w : Nat} (t : Timer w) (top : BitVec w)

@[simp] theorem tick_ctrlA : (t.tick top).ctrlA = t.ctrlA := rfl
@[simp] theorem tick_ctrlB : (t.tick top).ctrlB = t.ctrlB := rfl
@[simp] theorem tick_cmpA : (t.tick top).cmpA = t.cmpA := rfl
@[simp] theorem tick_cmpB : (t.tick top).cmpB = t.cmpB := rfl
@[simp] theorem tick_imsk : (t.tick top).imsk = t.imsk := rfl
@[simp] theorem tick_dir : (t.tick top).dir = t.dir := rfl
@[simp] theorem tick_clken : (t.tick top).clken = t.clken := rfl
@[simp] theorem tick_cnt : (t.tick top).cnt = if t.wraps top then 0 else t.cnt + 1 := rfl
@[simp] theorem tick_cmp (x : Channel) : (t.tick top).cmp x = t.cmp x := by cases x <;> rfl
@[simp] theorem tick_comEn (x : Channel) : (t.tick top).comEn x = t.comEn x := rfl
@[simp] theorem tick_pwm : (t.tick top).pwm = t.pwm := rfl
@[simp] theorem tick_cs : (t.tick top).cs = t.cs := rfl
@[simp] theorem tick_en : (t.tick top).en = t.en := rfl
@[simp] theorem tick_ie (x : Channel) : (t.tick top).ie x = t.ie x := rfl

/-- The latch of a channel after a tick (44_counter_waveform.md R216). -/
@[simp] theorem tick_oc (x : Channel) :
    (t.tick top).oc x = latchAfter (t.comEn x) (t.wraps top) (t.hits top x) (t.oc x) := by
  cases x <;> rfl

/-- The flag of a channel after a tick: set by a match, else as it was (44_counter_waveform.md R215). -/
@[simp] theorem tick_ifl (x : Channel) : (t.tick top).ifl x = (t.ifl x || t.hits top x) := by
  cases x <;> simp only [Timer.ifl, Timer.tick, BitVec.getLsbD_or, Channel.bitNo] <;>
    cases t.hits top .a <;> cases t.hits top .b <;> simp [Channel.flag, Channel.mask, Channel.bitNo]

end

section
variable (s : State) (p : Periph)

/-- In a modelled mode the step of the counter is a tick (44_counter_waveform.md R212). -/
theorem counterStep_ticks (h : s.modelledMode p = true) :
    s.counterStep p = s.setTimer p ((s.timer p).tick (s.top p)) := by
  simp [State.counterStep, h]

/-- In any other mode it is the fault UNMODELLED_MODE (44_counter_waveform.md R211). -/
theorem counterStep_faults (h : s.modelledMode p = false) :
    s.counterStep p = s.raiseFault .unmodelledMode none (.counter p) := by
  simp [State.counterStep, h]

/-- A tick leaves the mode as it is. -/
theorem modelledMode_counterStep : (s.counterStep p).modelledMode p = s.modelledMode p := by
  cases h : s.modelledMode p
  · rw [counterStep_faults s p h]; simpa [State.modelledMode] using h
  · rw [counterStep_ticks s p h]; simpa [State.modelledMode] using h

end

end Sys2Proof.Machine
end

