-- ==== Sys2Proof/Laws/Encoding.lean ====
section
/-! SUPPORT. The small facts of the encoding (30_encoding.md R91 to R98): fields and words are in bijection, and so are the P
bit, the register indices and the opcodes with their names. -/

namespace Sys2Proof

/-- The fields of the word of some fields are those fields. -/
theorem ofWord_toWord (f : Fields) : Fields.ofWord f.toWord = f := by
  cases f
  simp only [Fields.ofWord, Fields.toWord, Fields.mk.injEq]
  refine ⟨?_, ?_, ?_, ?_, ?_, ?_⟩ <;> ext i hi <;>
    simp only [BitVec.getElem_extractLsb', BitVec.getLsbD_append] <;> interval_cases i <;> simp

/-- The word of a word's fields is that word. -/
theorem toWord_ofWord (w : Word) : (Fields.ofWord w).toWord = w := by
  simp only [Fields.ofWord, Fields.toWord]
  ext i hi
  simp only [BitVec.getElem_append, BitVec.getElem_extractLsb']
  interval_cases i <;> simp

/-! ### Names and numbers -/

@[simp] theorem ofCode_code (o : Op) : Op.ofCode o.code = some o := by cases o <;> rfl

theorem code_of_ofCode {c : BitVec 4} {o : Op} (h : Op.ofCode c = some o) : o.code = c := by
  revert o; revert c; decide

@[simp] theorem ofIndex_index (r : Reg) : Reg.ofIndex r.index = some r := by cases r <;> rfl

theorem index_of_ofIndex {c : BitVec 4} {r : Reg} (h : Reg.ofIndex c = some r) : r.index = c := by
  revert r; revert c; decide

@[simp] theorem ofBit_toBit (p : Periph) : Periph.ofBit p.toBit = p := by cases p <;> rfl

@[simp] theorem toBit_ofBit (b : BitVec 1) : (Periph.ofBit b).toBit = b := by revert b; decide

theorem ofCode_inj_iff {c : BitVec 4} {o : Op} : Op.ofCode c = some o ↔ c = o.code :=
  ⟨fun h => (code_of_ofCode h).symm, fun h => h ▸ ofCode_code o⟩

/-! ### The encoder's fields -/

@[simp] theorem encodeFields_opc (i : Instr) : (encodeFields i).opc = i.op.code := by cases i <;> rfl

@[simp] theorem encodeFields_rsv1 (i : Instr) : (encodeFields i).rsv1 = 0 := by cases i <;> rfl

@[simp] theorem encodeFields_rsv2 (i : Instr) : (encodeFields i).rsv2 = 0 := by cases i <;> rfl

/-- The decoder on the word of a command reads the encoder's fields. -/
theorem decode_encode_fields (i : Instr) : decode (encode i) = decodeOperands i.op (encodeFields i) := by
  simp [decode, encode, ofWord_toWord, decodeFields, Verdict.need]

/-! ### The halves of PULSE's operand -/

@[simp] theorem lowHalf_append (a b : BitVec 16) : (b ++ a).extractLsb' 0 16 = a := by
  ext i hi
  simp only [BitVec.getElem_extractLsb', BitVec.getLsbD_append]
  interval_cases i <;> simp

@[simp] theorem highHalf_append (a b : BitVec 16) : (b ++ a).extractLsb' 16 16 = b := by
  ext i hi
  simp only [BitVec.getElem_extractLsb', BitVec.getLsbD_append]
  interval_cases i <;> simp

theorem append_halves (v : Operand) : v.extractLsb' 16 16 ++ v.extractLsb' 0 16 = v := by
  ext i hi
  simp only [BitVec.getElem_append, BitVec.getElem_extractLsb']
  interval_cases i <;> simp

end Sys2Proof
end

