-- ==== Sys2Proof/Laws/Runs.lean ====
section
/-! SUPPORT. Runs of agents' steps: a run of one more tick at its end, a run split in two, and what one step of an
interleaving is (20_memory.md R79, 44_counter_waveform.md R218). -/

namespace Sys2Proof.Machine

section
variable (p : Periph) (s : State)

@[simp] theorem ticks_zero : s.ticks p 0 = s := rfl

/-- The first of n + 1 ticks. -/
theorem ticks_succ_left (n : Nat) : s.ticks p (n + 1) = (s.counterStep p).ticks p n := rfl

/-- The last of n + 1 ticks. -/
theorem ticks_succ (n : Nat) : s.ticks p (n + 1) = (s.ticks p n).counterStep p := by
  induction n generalizing s with
  | zero => rfl
  | succ n ih => exact ih (s.counterStep p)

@[simp] theorem eagerTicks_zero : s.eagerTicks p 0 = s := rfl

/-- The first of n + 1 ticks under the eager schedule. -/
theorem eagerTicks_succ_left (n : Nat) : s.eagerTicks p (n + 1) = (s.eagerTick p).eagerTicks p n := rfl

/-- The last of n + 1 ticks under the eager schedule. -/
theorem eagerTicks_succ (n : Nat) : s.eagerTicks p (n + 1) = (s.eagerTicks p n).eagerTick p := by
  induction n generalizing s with
  | zero => rfl
  | succ n ih => exact ih (s.eagerTick p)

/-- A run of ticks leaves the mode as it is. -/
theorem modelledMode_ticks (n : Nat) : (s.ticks p n).modelledMode p = s.modelledMode p := by
  induction n with
  | zero => rfl
  | succ n ih => rw [ticks_succ, modelledMode_counterStep, ih]

end

section
variable (s : State)

/-- The step of an agent in an interleaving is its enabled step. -/
theorem take_eq_some {a : Agent} {t : State} : s.take a = some t ↔ s.enabled a = true ∧ s.agentStep a = .next t := by
  unfold State.take
  split
  · rename_i h
    cases hs : s.agentStep a <;> simp [h]
  · rename_i h
    simp [h]

@[simp] theorem after_nil : s.after [] = some s := rfl

/-- The first step of an interleaving. -/
theorem after_cons (a : Agent) (as : List Agent) : s.after (a :: as) = (s.take a).bind fun t => t.after as := rfl

/-- An interleaving of two parts. -/
theorem after_append (as bs : List Agent) : s.after (as ++ bs) = (s.after as).bind fun t => t.after bs := by
  induction as generalizing s with
  | nil => rfl
  | cons a as ih =>
    rw [List.cons_append, after_cons, after_cons]
    cases s.take a with
    | none => rfl
    | some t => exact ih t

/-- A halted machine has no next agent step in any interleaving (60_exceptions.md R248). -/
theorem take_halted {a : Agent} (h : s.halted = true) : s.take a = none := by
  have : s.enabled a = false := by cases a <;> simp [State.enabled, h]
  simp [State.take, this]

end

end Sys2Proof.Machine
end

