-- ==== Sys2Proof/Laws/Observation.lean ====
section
/-! SUPPORT. Facts of the observation of a run (70_reset_and_hazards.md R292, R294): when a pin is High, the end of a run is
one step, the rest of a counted execution is a continuation, and a fault some weakly fair continuation meets leaves the
observation undefined. -/

namespace Sys2Proof.Machine

/-- A pin is High exactly when it is an output, connected, and its latch is 1 (44_counter_waveform.md R217). -/
@[simp] theorem pin_eq_high (s : State) (p : Periph) (x : Channel) :
    s.pin p x = .high ↔ (s.timer p).dirBit x = true ∧ (s.timer p).comEn x = true ∧ (s.timer p).oc x = true := by
  cases hd : (s.timer p).dirBit x <;> cases hc : (s.timer p).comEn x <;> cases ho : (s.timer p).oc x <;>
    simp [State.pin, hd, hc, ho]

/-- What a step adds to the high time. -/
theorem highTick_iff (p : Periph) (x : Channel) (a : Agent) (t : State) :
    highTick p x a t = true ↔ a = .counter p ∧ t.pin p x = .high := by
  simp [highTick]

/-! ### High time, one step at a time -/

@[simp] theorem highTicks_nil (p : Periph) (x : Channel) (run : List State) : highTicks p x [] run = 0 := by
  simp [highTicks]

theorem highTicks_cons (p : Periph) (x : Channel) (a : Agent) (as : List Agent) (t : State) (run : List State) :
    highTicks p x (a :: as) (t :: run) = highTicks p x as run + if highTick p x a t then 1 else 0 := by
  simp [highTicks, List.countP_cons]

/-- Over ticks of counter(P) alone, the high time counts the states that show High. -/
theorem highTicks_ticks (p : Periph) (x : Channel) (n : Nat) (state : Nat → State) :
    highTicks p x (List.replicate n (.counter p)) ((List.range n).map state) =
      (List.range n).countP fun j => (state j).pin p x == .high := by
  have hz : (List.replicate n (Agent.counter p)).zip ((List.range n).map state) =
      (List.range n).map fun j => (Agent.counter p, state j) := by
    apply List.ext_getElem <;> simp
  rw [highTicks, hz, List.countP_map]
  simp [Function.comp_def, highTick]

theorem execution_highTicks_succ (e : Execution) (p : Periph) (x : Channel) (n : Nat) :
    e.highTicks p x (n + 1) =
      e.highTicks p x n + if (e.agent n).any fun a => highTick p x a (e.state (n + 1)) then 1 else 0 := by
  simp [Execution.highTicks, List.range_succ, List.countP_append, List.countP_cons]

/-! ### The trace during a run -/

@[simp] theorem pinTraceTo_zero (e : Execution) (p : Periph) : e.pinTraceTo 0 p = [] := rfl

/-- What one more step adds to the trace. -/
theorem pinTraceTo_succ (e : Execution) (p : Periph) (n : Nat) :
    e.pinTraceTo (n + 1) p = e.pinTraceTo n p ++ (e.pinTrace p n).toList := by
  cases h : e.pinTrace p n <;> simp [Execution.pinTraceTo, List.range_succ, h]

/-! ### The end of a run and its continuations -/

/-- A run ends at one step at most. -/
theorem endsAt_unique {e : Execution} {n m : Nat} (hn : e.EndsAt n) (hm : e.EndsAt m) : n = m := by
  rcases Nat.lt_trichotomy n m with h | h | h
  · exact absurd (hm.2 n h) (by simp [hn.1])
  · exact h
  · exact absurd (hn.2 m h) (by simp [hm.1])

/-- An execution from its step n on. -/
def Execution.drop (e : Execution) (n : Nat) : Execution where
  state k := e.state (n + k)
  agent k := e.agent (n + k)

/-- The rest of a counted execution is a counted execution from the state it has reached. -/
theorem drop_countedFrom {e : Execution} (h : e.Counted) (n : Nat) : (e.drop n).CountedFrom (e.state n) := by
  refine ⟨⟨fun k => h.1 (n + k), fun a k hk => ?_⟩, rfl⟩
  obtain ⟨m, hm, ha⟩ := h.2 a (n + k) fun m hm => by
    have := hk (m - n) (by omega)
    rwa [show (e.drop n).state (m - n) = e.state m from congrArg e.state (by omega)] at this
  exact ⟨m - n, by omega, by rwa [show (e.drop n).agent (m - n) = e.agent m from congrArg e.agent (by omega)]⟩

/-- In a run whose observation is defined, nothing halts after the end either. -/
theorem not_halted_after_end {e : Execution} {n : Nat} (h : e.ObservableAt n) {m : Nat} (hm : n ≤ m) :
    (e.state m).halted = false := by
  have := h.2.2 _ (drop_countedFrom h.1 n) (m - n)
  rwa [show (e.drop n).state (m - n) = e.state m from congrArg e.state (by omega)] at this

/-- The execution in which one agent steps and then no agent has a step. -/
def Execution.oneStep (s t : State) (a : Agent) : Execution where
  state n := if n = 0 then s else t
  agent n := if n = 0 then some a else none

/-- Such an execution counts: once no agent is enabled, none waits for its step. -/
theorem oneStep_countedFrom {s t : State} {a : Agent} (hs : s.take a = some t) (ht : t.enabledAgents = []) :
    (Execution.oneStep s t a).CountedFrom s := by
  refine ⟨⟨fun n => ?_, fun b n hb => ?_⟩, rfl⟩
  · cases n with
    | zero => exact hs
    | succ n => exact ⟨ht, rfl⟩
  · have hmem : b ∈ t.enabledAgents := (mem_enabledAgents t b).2 (hb (n + 1) (by omega))
    rw [ht] at hmem
    cases hmem

/-- A state in which some enabled agent's step halts the machine is not safe to end in: the execution that takes that step
counts, so a run that ends there has no observation, whatever order its own steps took. -/
theorem not_safeAfter_of_halting_step {s t : State} {a : Agent} (hs : s.take a = some t) (ht : t.halted = true) :
    ¬s.SafeAfter := by
  intro h
  have hnone : t.enabledAgents = [] := by
    rw [List.eq_nil_iff_forall_not_mem]
    intro b hb
    simpa [ht] using enabled_live t ((mem_enabledAgents t b).1 hb)
  have : t.halted = false := h _ (oneStep_countedFrom hs hnone) 1
  simp [ht] at this

/-- An enabled counter in a mode the source does not describe leaves a run that ends there without an observation
(70_reset_and_hazards.md R292, 44_counter_waveform.md R211). -/
theorem not_safeAfter_of_unmodelledMode {s : State} {p : Periph} (he : s.enabled (.counter p) = true)
    (hm : s.modelledMode p = false) : ¬s.SafeAfter := by
  refine not_safeAfter_of_halting_step (a := .counter p) (t := s.counterStep p) ((take_eq_some s).2 ⟨he, rfl⟩) ?_
  rw [counterStep_faults s p hm]
  rfl

/-- A state in which no agent has a step is safe to end in. -/
theorem safeAfter_of_no_agent {s : State} (hl : s.halted = false) (hs : s.enabledAgents = []) : s.SafeAfter := by
  intro e he n
  have hstay : ∀ n, e.state n = s := by
    intro n
    induction n with
    | zero => exact he.2
    | succ n ih =>
      have hv := he.1.1 n
      cases ha : e.agent n with
      | none => rw [ha] at hv; exact hv.2.trans ih
      | some a =>
        rw [ha, ih] at hv
        have : a ∈ s.enabledAgents := (mem_enabledAgents s a).2 ((take_eq_some s).1 hv).1
        rw [hs] at this
        cases this
  rw [hstay n, hl]

end Sys2Proof.Machine
end

