-- ==== Sys2Proof/Laws/Operands.lean ====
section
/-! SUPPORT. The scalings of the converter on the duration range, with no truncation left in them (41_converter.md R143,
R145), and the clamp (40_shared_contract.md R121). -/

namespace Sys2Proof.Machine

/-- The clamp as a maximum of a minimum. -/
theorem limitNanos_eq (n : Nat) : limitNanos n = max 1000000 (min n 2000000) := by
  unfold limitNanos outMinNanos outMaxNanos
  split
  · omega
  · split <;> omega

/-- No truncation of `scale16` changes a value on the range (41_converter.md R143). -/
theorem scale16_eq (order : ConvOrder) (f : Freq) (n : Nat) (hi : n ≤ 2000000) :
    scale16 order f n = outMin .t16 f + match order with
      | .scaleFirst => (n - 1000000) * (outRange .t16 f / 10) / 100000
      | .inputFirst => (n - 1000000) / 10 * outRange .t16 f / 100000 := by
  have hx : n - 1000000 ≤ 1000000 := by omega
  have hq : outRangeNanos = 1000000 := by decide
  have hm : outMin .t16 f ≤ 32000 := by cases f <;> decide
  have hr : outRange .t16 f ≤ 32000 := by cases f <;> decide
  have hs : outRange .t16 f / 10 ≤ 3200 := by omega
  cases order <;> simp only [scale16, uN, outMinNanos, hq, Nat.reduceDiv] <;> generalize n - 1000000 = x at *
  · have hp := Nat.mul_le_mul hx hs
    rw [Nat.mod_eq_of_lt (a := x) (by omega), Nat.mod_eq_of_lt (a := x * _) (by omega),
      Nat.mod_eq_of_lt (b := 2 ^ 32) (by omega), Nat.mod_eq_of_lt (b := 2 ^ 16) (by omega)]
  · have hp := Nat.mul_le_mul (show x / 10 ≤ 100000 by omega) hr
    rw [Nat.mod_eq_of_lt (a := x) (by omega), Nat.mod_eq_of_lt (a := x / 10 * _) (by omega),
      Nat.mod_eq_of_lt (b := 2 ^ 32) (by omega), Nat.mod_eq_of_lt (b := 2 ^ 16) (by omega)]

/-- No truncation of `scale8` changes a value on the range (41_converter.md R145). -/
theorem scale8_eq (n : Nat) (hi : n ≤ 2000000) : scale8 n = 125 + (n - 1000000) * 126 / 1000000 := by
  have hx : n - 1000000 ≤ 1000000 := by omega
  have hq : outRangeNanos = 1000000 := by decide
  have hm : outMin .t8 .ref = 125 := by decide
  have hr : outRange .t8 .ref = 126 := by decide
  simp only [scale8, uN, outMinNanos, hq, hm, hr]
  generalize n - 1000000 = x at *
  rw [Nat.mod_eq_of_lt (a := x) (by omega), Nat.mod_eq_of_lt (a := x * _) (by omega),
    Nat.mod_eq_of_lt (b := 2 ^ 32) (by omega), Nat.mod_eq_of_lt (b := 2 ^ 8) (by omega)]

end Sys2Proof.Machine
end

