-- ==== Sys2Proof/Laws/PerInstr.lean ====
section
/-! SUPPORT. Statements made per command, one lemma per constructor of Instr (30_encoding.md R91, R96): the word of a command
has the command's opcode, its reserved fields 0, and the fields the encoder lays down. -/

namespace Sys2Proof.Laws.EncodedFields

/-- The fields of a command's word (30_encoding.md R91, R92, R96). -/
def Statement (i : Instr) : Prop :=
  Fields.ofWord (encode i) = encodeFields i ∧ (Fields.ofWord (encode i)).opc = i.op.code ∧
    (Fields.ofWord (encode i)).rsv1 = 0 ∧ (Fields.ofWord (encode i)).rsv2 = 0

/-- The statement holds of every command by the bijection of words and fields. -/
theorem of_fields (i : Instr) : Statement i := by
  simp [Statement, encode, ofWord_toWord]

theorem limit (n : Operand) : Statement (.limit n) := of_fields _
theorem bit (s : BitVec 4) : Statement (.bit s) := of_fields _
theorem conv (p : Periph) (c : BitVec 4) (n : Operand) : Statement (.conv p c n) := of_fields _
theorem caps : Statement .caps := of_fields _
theorem wr (p : Periph) (r : Reg) (v : Operand) : Statement (.wr p r v) := of_fields _
theorem rd (p : Periph) (r : Reg) : Statement (.rd p r) := of_fields _
theorem prepare (p : Periph) : Statement (.prepare p) := of_fields _
theorem start (p : Periph) : Statement (.start p) := of_fields _
theorem pulse (p : Periph) (a b : BitVec 16) : Statement (.pulse p a b) := of_fields _
theorem pulseA (p : Periph) (v : Operand) : Statement (.pulseA p v) := of_fields _
theorem pulseB (p : Periph) (v : Operand) : Statement (.pulseB p v) := of_fields _
theorem stop (p : Periph) : Statement (.stop p) := of_fields _

end Sys2Proof.Laws.EncodedFields
end

