-- ==== Sys2Proof/Machine/Assembly.lean ====
section
/-! DEFINITION. The assembly syntax of SPT-CMD (30_encoding.md R100): an assembler from a line of text to a command, and the
text of a command. There are no pseudo-instructions (R101). -/

namespace Sys2Proof.Machine

/-! ### Text to command -/

/-- Split at blanks, dropping empty pieces. -/
def splitBlanks : List Char → List (List Char)
  | [] => []
  | c :: cs =>
    match c == ' ', splitBlanks cs, cs with
    | true, rest, _ => rest
    | false, w :: rest, d :: _ => if d == ' ' then [c] :: w :: rest else (c :: w) :: rest
    | false, rest, _ => [c] :: rest

/-- The text before the comma it ends with; none if it ends with none. -/
def beforeComma : List Char → Option (List Char)
  | [] => none
  | [c] => if c == ',' then some [] else none
  | c :: cs => (beforeComma cs).map (c :: ·)

/-- The operands of the pieces after a mnemonic: each but the last ends with a comma, which is dropped, and the last ends with
none. A comma inside a numeral is a digit separator (log entry 16). -/
def splitOperands : List (List Char) → Option (List (List Char))
  | [] => some []
  | [o] => if (beforeComma o).isSome then none else some [o]
  | o :: os => return (← beforeComma o) :: (← splitOperands os)

/-- The value of a digit in a base up to 16. -/
def digitValue (c : Char) : Option Nat :=
  let n := c.toNat
  if 48 ≤ n ∧ n ≤ 57 then some (n - 48)
  else if 65 ≤ n ∧ n ≤ 70 then some (n - 55)
  else if 97 ≤ n ∧ n ≤ 102 then some (n - 87)
  else none

/-- The number a run of digits names, skipping the separators `_` and `,` (00_scope.md R11), each of which a digit must follow
(log entry 16). -/
def digitsValue (base acc : Nat) : List Char → Option Nat
  | [] => some acc
  | c :: cs =>
    if c == '_' || c == ',' then
      match cs with
      | d :: _ => if (digitValue d).isSome then digitsValue base acc cs else none
      | [] => none
    else match digitValue c with
      | some d => if d < base then digitsValue base (acc * base + d) cs else none
      | none => none

/-- A numeral: decimal, or hexadecimal after 0x (30_encoding.md R100). It begins with a digit. -/
def parseNumber : List Char → Option Nat
  | '0' :: 'x' :: c :: cs => if (digitValue c).isSome then digitsValue 16 0 (c :: cs) else none
  | c :: cs => if (digitValue c).isSome then digitsValue 10 0 (c :: cs) else none
  | [] => none

/-- A numeral below 2^w, as a w-bit operand. -/
def parseBits (w : Nat) (cs : List Char) : Option (BitVec w) :=
  match parseNumber cs with
  | some n => if n < 2 ^ w then some (BitVec.ofNat w n) else none
  | none => none

/-- The text of a peripheral's name. -/
def periphText : Periph → List Char
  | .t16 => ['T', '1', '6']
  | .t8 => ['T', '8']

/-- The text of a register's name (10_state.md R31). -/
def regText : Reg → List Char
  | .ctrlA => ['C', 'T', 'R', 'L', 'A']
  | .ctrlB => ['C', 'T', 'R', 'L', 'B']
  | .cnt => ['C', 'N', 'T']
  | .per => ['P', 'E', 'R']
  | .cmpA => ['C', 'M', 'P', 'A']
  | .cmpB => ['C', 'M', 'P', 'B']
  | .imsk => ['I', 'M', 'S', 'K']
  | .iflg => ['I', 'F', 'L', 'G']
  | .dir => ['D', 'I', 'R']
  | .clken => ['C', 'L', 'K', 'E', 'N']

/-- The text of a mnemonic (30_encoding.md R96). -/
def opText : Op → List Char
  | .limit => ['L', 'I', 'M', 'I', 'T']
  | .bit => ['B', 'I', 'T']
  | .conv => ['C', 'O', 'N', 'V']
  | .caps => ['C', 'A', 'P', 'S']
  | .wr => ['W', 'R']
  | .rd => ['R', 'D']
  | .prepare => ['P', 'R', 'E', 'P', 'A', 'R', 'E']
  | .start => ['S', 'T', 'A', 'R', 'T']
  | .pulse => ['P', 'U', 'L', 'S', 'E']
  | .pulseA => ['P', 'U', 'L', 'S', 'E', 'A']
  | .pulseB => ['P', 'U', 'L', 'S', 'E', 'B']
  | .stop => ['S', 'T', 'O', 'P']

/-- The peripheral a text names. -/
def parsePeriph (cs : List Char) : Option Periph := [Periph.t16, .t8].find? (fun p => periphText p == cs)

/-- The register a text names. -/
def parseReg (cs : List Char) : Option Reg :=
  [Reg.ctrlA, .ctrlB, .cnt, .per, .cmpA, .cmpB, .imsk, .iflg, .dir, .clken].find? (fun r => regText r == cs)

/-- The mnemonic a text names. -/
def parseOp (cs : List Char) : Option Op :=
  [Op.limit, .bit, .conv, .caps, .wr, .rd, .prepare, .start, .pulse, .pulseA, .pulseB, .stop].find?
    (fun o => opText o == cs)

/-- A frequency code: REF, ALT or #code (30_encoding.md R100). -/
def parseCode : List Char → Option (BitVec 4)
  | ['R', 'E', 'F'] => some 0
  | ['A', 'L', 'T'] => some 1
  | '#' :: cs => parseBits 4 cs
  | _ => none

/-- The command of a mnemonic and its operands' texts (30_encoding.md R100). -/
def parseOperands : Op → List (List Char) → Option Instr
  | .limit, [n] => return .limit (← parseBits 32 n)
  | .bit, [n] => return .bit (← parseBits 4 n)
  | .conv, [p, n] => match parsePeriph p with
    | some .t8 => return .conv .t8 0 (← parseBits 32 n)
    | _ => none
  | .conv, [p, c, n] => match parsePeriph p with
    | some .t16 => return .conv .t16 (← parseCode c) (← parseBits 32 n)
    | _ => none
  | .caps, [] => some .caps
  | .wr, [p, r, v] => return .wr (← parsePeriph p) (← parseReg r) (← parseBits 32 v)
  | .rd, [p, r] => return .rd (← parsePeriph p) (← parseReg r)
  | .prepare, [p] => return .prepare (← parsePeriph p)
  | .start, [p] => return .start (← parsePeriph p)
  | .pulse, [p, a, b] => return .pulse (← parsePeriph p) (← parseBits 16 a) (← parseBits 16 b)
  | .pulseA, [p, v] => return .pulseA (← parsePeriph p) (← parseBits 32 v)
  | .pulseB, [p, v] => return .pulseB (← parsePeriph p) (← parseBits 32 v)
  | .stop, [p] => return .stop (← parsePeriph p)
  | _, _ => none

/-- The command a line of assembly names; none if the line is outside the syntax of 30_encoding.md R100 as log entry 16 reads
it (a missing comma, and one after the mnemonic or the last operand, among others) or no word encodes the command. -/
def assembleLine (line : List Char) : Option Instr :=
  match splitBlanks line with
  | [] => none
  | m :: args => do
    let i ← parseOperands (← parseOp m) (← splitOperands args)
    if i.wf then some i else none

/-- Whether a line is a comment (it begins `--`) or blank (30_encoding.md R100). -/
def isComment (line : List Char) : Bool :=
  match line.dropWhile (· == ' ') with
  | [] => true
  | '-' :: '-' :: _ => true
  | _ => false

/-- The program of some lines of assembly: one word for each command, comments and blank lines skipped. -/
def assemble (lines : List String) : Option (List Word) :=
  ((lines.map String.toList).filter (fun l => !isComment l)).mapM (fun l => (assembleLine l).map encode)

/-! ### Command to text -/

/-- The decimal text of a number. -/
def decimal (n : Nat) : List Char := Nat.toDigits 10 n

/-- Operands separated by a comma and a blank. -/
def operandList : List (List Char) → List Char
  | [] => []
  | [o] => o
  | o :: os => o ++ [',', ' '] ++ operandList os

/-- The text of a frequency code: REF, ALT or #code. -/
def codeText (code : BitVec 4) : List Char :=
  match code.toNat with
  | 0 => ['R', 'E', 'F']
  | 1 => ['A', 'L', 'T']
  | n => '#' :: decimal n

/-- The operands' texts of a command (30_encoding.md R100). -/
def operandTexts : Instr → List (List Char)
  | .limit n => [decimal n.toNat]
  | .bit s => [decimal s.toNat]
  | .conv .t16 c n => [periphText .t16, codeText c, decimal n.toNat]
  | .conv .t8 _ n => [periphText .t8, decimal n.toNat]
  | .caps => []
  | .wr p r v => [periphText p, regText r, decimal v.toNat]
  | .rd p r => [periphText p, regText r]
  | .prepare p => [periphText p]
  | .start p => [periphText p]
  | .pulse p a b => [periphText p, decimal a.toNat, decimal b.toNat]
  | .pulseA p v => [periphText p, decimal v.toNat]
  | .pulseB p v => [periphText p, decimal v.toNat]
  | .stop p => [periphText p]

/-- The line of assembly of a command. -/
def lineOf (i : Instr) : List Char :=
  match operandTexts i with
  | [] => opText i.op
  | os => opText i.op ++ ' ' :: operandList os

end Sys2Proof.Machine
end

