-- ==== Sys2Proof/Tests/Slice0.lean ====
section
/-! SUPPORT. The model's own tests: words written out from 30_encoding.md, ill-formed commands, single steps with the results
95_test_vectors.md and the rules give, and, for each statement with hypotheses, a state and operands that meet them. The
name of a witness is `test_witness_` and the statement's. -/

namespace Sys2Proof.Tests

open Sys2Proof.Machine

/-! ## A small machine -/

/-- A configuration with every parameter a number: T16 starts with code 1 (REF) or 2 (ALT), T8 with 3 or 4. -/
def cfg (f : Freq) (hw : Bool) (order : ConvOrder) (sel : RefreshSel) : Config where
  fCpu := f
  hasTimerHw := hw
  freqHz := ⟨16, 32⟩
  convOrder := order
  csStart := ⟨⟨.c1, .c2⟩, ⟨.c3, .c4⟩⟩
  csValid := ⟨[.c1, .c2], [.c3, .c4]⟩
  presc := ⟨⟨1, 1, 1, 1, 1, 1, 1⟩, ⟨1, 1, 1, 1, 1, 1, 1⟩⟩
  refreshSel := ⟨sel, sel⟩

/-- The convention of 95_test_vectors.md: F_CPU = REF, the hardware present, ScaleFirst, REFRESH_VALUE = MAX. -/
def base : Config := cfg .ref true .scaleFirst .max

/-- A stopped peripheral with every register 0. -/
def quiet (w : Nat) : Timer w :=
  { ctrlA := 0, ctrlB := 0, cnt := 0, cmpA := 0, cmpB := 0, imsk := 0, iflg := 0, dir := 0, clken := 0, ocA := false,
    ocB := false }

/-- A running T16 in the middle of a period. -/
def busy16 : Timer 16 :=
  { ctrlA := 7, ctrlB := 1, cnt := 100, cmpA := 8000, cmpB := 16000, imsk := 3, iflg := 0, dir := 2, clken := 1,
    ocA := true, ocB := false }

/-- A running T8 in the middle of a period. -/
def busy8 : Timer 8 :=
  { ctrlA := 7, ctrlB := 3, cnt := 62, cmpA := 63, cmpB := 126, imsk := 3, iflg := 0, dir := 1, clken := 1,
    ocA := false, ocB := true }

/-- A machine with the given configuration and program, both peripherals stopped. -/
def idle (c : Config) (program : List Word) : State :=
  { cfg := c, program := program, pc := 0, uq := [], resp := ⟨0, 0⟩, fault := none, refused := none, t16 := quiet 16,
    per := 0, t8 := quiet 8, draws := 0, sched := [], turn := 0 }

/-- The same with both peripherals running and PER = 32000. -/
def running (c : Config) (program : List Word) : State := { idle c program with t16 := busy16, per := 32000, t8 := busy8 }

/-- The state an outcome holds, or the given one if it holds none. -/
def stateOf (s : State) (o : Host.Outcome State Fault Refusal) : State :=
  match o with
  | .next t => t
  | _ => s

/-- The state the controller's execution of a command leaves. -/
def does (i : Instr) (s : State) : State := stateOf s (exec i s)

/-- The state a command leaves when nothing interleaves. -/
def completes (i : Instr) (s : State) : State := stateOf s (s.runCommand i)

/-- RESP of a command, as two numbers. -/
def respOf (i : Instr) (s : State) : Nat × Nat := ((does i s).resp.value.toNat, (does i s).resp.status.toNat)

/-- A machine about to step the controller on the command. -/
def issuing (c : Config) (i : Instr) : State := { idle c [encode i] with sched := [.controller] }

/-! ## Decoding (30_encoding.md R102, 95_test_vectors.md Part 2) -/

theorem test_decode_limit :
    decode 0x100000000016E360 = .cmd (.limit 1500000) ∧ decode 0x1800000000000000 = .illegal .periphNotZero ∧
    decode 0x1010000000000000 = .illegal .selNotZero := by decide

theorem test_decode_bit :
    decode 0x2070000000000000 = .cmd (.bit 7) ∧ decode 0x20F0000000000000 = .cmd (.bit 15) ∧
    decode 0x2070000000000001 = .illegal .immNotZero ∧ decode 0x2800000000000000 = .illegal .periphNotZero := by decide

theorem test_decode_conv :
    decode 0x30100000000F4240 = .cmd (.conv .t16 1 1000000) ∧ decode 0x302000000016E360 = .cmd (.conv .t16 2 1500000) ∧
    decode 0x380000000016E360 = .cmd (.conv .t8 0 1500000) ∧ decode 0x3810000000000000 = .illegal .selNotZero := by
  decide

theorem test_decode_caps :
    decode 0x4000000000000000 = .cmd .caps ∧ decode 0x4000000000000001 = .illegal .immNotZero := by decide

theorem test_decode_wr :
    decode 0x5030000000007D00 = .cmd (.wr .t16 .per 32000) ∧ decode 0x5870000000000003 = .cmd (.wr .t8 .iflg 3) ∧
    decode 0x5830000000000000 = .illegal .noSuchRegister ∧ decode 0x50A0000000000000 = .illegal .noSuchRegister ∧
    decode 0x5000000000000008 = .illegal .valueOutsideMask ∧ decode 0x5820000000000100 = .illegal .valueOutsideMask ∧
    decode 0x5090000000000002 = .illegal .valueOutsideMask := by decide

theorem test_decode_rd :
    decode 0x6020000000000000 = .cmd (.rd .t16 .cnt) ∧ decode 0x6070000000000000 = .cmd (.rd .t16 .iflg) ∧
    decode 0x6830000000000000 = .illegal .noSuchRegister ∧ decode 0x6020000000000001 = .illegal .immNotZero := by decide

theorem test_decode_prepare :
    decode 0x7000000000000000 = .cmd (.prepare .t16) ∧ decode 0x7800000000000000 = .cmd (.prepare .t8) ∧
    decode 0x7100000000000000 = .illegal .reservedField ∧ decode 0x7000000100000000 = .illegal .reservedField := by
  decide

theorem test_decode_start :
    decode 0x8000000000000000 = .cmd (.start .t16) ∧ decode 0x8800000000000000 = .cmd (.start .t8) := by decide

theorem test_decode_pulse :
    decode 0x900000003E805DC0 = .cmd (.pulse .t16 24000 16000) ∧ decode 0x98000000007D00BC = .cmd (.pulse .t8 188 125) ∧
    decode 0x9800000000000100 = .illegal .operandTooWide := by decide

theorem test_decode_pulseA :
    decode 0xA000000000005DC0 = .cmd (.pulseA .t16 24000) ∧ decode 0xA000000000010000 = .illegal .operandTooWide := by
  decide

theorem test_decode_pulseB :
    decode 0xB8000000000000FB = .cmd (.pulseB .t8 251) ∧ decode 0xB800000000000100 = .illegal .operandTooWide := by
  decide

theorem test_decode_stop :
    decode 0xC000000000000000 = .cmd (.stop .t16) ∧ decode 0xC800000000000000 = .cmd (.stop .t8) := by decide

theorem test_decode_reserved_opcodes :
    decode 0x0000000000000000 = .illegal .reservedOpcode ∧ decode 0xD000000000000000 = .illegal .reservedOpcode ∧
    decode 0xE000000000000000 = .illegal .reservedOpcode ∧ decode 0xF000000000000000 = .illegal .reservedOpcode := by
  decide

/-- The word of RD T16, CNT, bit by bit as 30_encoding.md R91 lays it out: OPC, P, RSV1, SEL, RSV2, IMM. -/
theorem test_word_bit_by_bit :
    encode (.rd .t16 .cnt) = 0b0110#4 ++ 0b0#1 ++ 0b000#3 ++ 0b0010#4 ++ 0#20 ++ 0#32 ∧
    encode (.pulse .t8 188 125) = 0b1001#4 ++ 0b1#1 ++ 0b000#3 ++ 0b0000#4 ++ 0#20 ++ 125#16 ++ 188#16 := by decide

theorem test_decodeTableWord :
    decodeTableWord 64 0x3010000000000000 = some (.conv .t16 1 0) ∧ decodeTableWord 64 0xD000000000000000 = none := by
  decide

/-! ## Ill-formed commands, one for each check of Instr.wf -/

theorem test_ill_formed_conv : (Instr.conv .t8 1 1500000).wf = false ∧ (Instr.conv .t16 15 0).wf = true := by decide
theorem test_ill_formed_wr_register : (Instr.wr .t8 .per 0).wf = false ∧ (Instr.wr .t16 .per 65535).wf = true := by decide
theorem test_ill_formed_wr_value : (Instr.wr .t16 .clken 2).wf = false ∧ (Instr.wr .t16 .clken 1).wf = true := by decide
theorem test_ill_formed_rd : (Instr.rd .t8 .per).wf = false ∧ (Instr.rd .t16 .per).wf = true := by decide
theorem test_ill_formed_pulse_a : (Instr.pulse .t8 256 0).wf = false ∧ (Instr.pulse .t8 255 255).wf = true := by decide
theorem test_ill_formed_pulse_b : (Instr.pulse .t8 0 256).wf = false ∧ (Instr.pulse .t16 65535 65535).wf = true := by
  decide
theorem test_ill_formed_pulseA : (Instr.pulseA .t16 65536).wf = false ∧ (Instr.pulseA .t16 65535).wf = true := by decide
theorem test_ill_formed_pulseB : (Instr.pulseB .t8 256).wf = false ∧ (Instr.pulseB .t8 255).wf = true := by decide

/-! ## Commands -/

/-- 95_test_vectors.md S1 to S3 and V-LIMIT. -/
theorem test_limit :
    respOf (.limit 500000) (idle base []) = (1000000, 0) ∧ respOf (.limit 3000000) (idle base []) = (2000000, 0) ∧
    respOf (.limit 1500000) (idle base []) = (1500000, 0) ∧ respOf (.limit 999999) (idle base []) = (1000000, 0) ∧
    respOf (.limit 2000001) (idle base []) = (2000000, 0) ∧ respOf (.limit 4294967295) (idle base []) = (2000000, 0) := by
  decide

/-- 95_test_vectors.md V-BIT. -/
theorem test_bit :
    respOf (.bit 0) (idle base []) = (1, 0) ∧ respOf (.bit 7) (idle base []) = (0x80, 0) ∧
    respOf (.bit 15) (idle base []) = (0x8000, 0) := by decide

/-- 95_test_vectors.md V-CAPS. -/
theorem test_caps :
    respOf .caps (idle (cfg .ref true .scaleFirst .max) []) = (1, 0) ∧
    respOf .caps (idle (cfg .alt true .scaleFirst .max) []) = (3, 0) ∧
    respOf .caps (idle (cfg .ref false .scaleFirst .max) []) = (0, 0) ∧
    respOf .caps (idle (cfg .alt false .scaleFirst .max) []) = (2, 0) := by decide

/-- 41_converter.md R148, rows 1,000,063 and 1,333,333 and 1,999,999, and 95_test_vectors.md V-CONV. -/
theorem test_conv_in_range :
    respOf (.conv .t16 0 1000063) (idle base []) = (16001, 0) ∧
    respOf (.conv .t16 0 1000063) (idle (cfg .ref true .inputFirst .max) []) = (16000, 0) ∧
    respOf (.conv .t16 1 1000032) (idle (cfg .ref true .inputFirst .max) []) = (32000, 0) ∧
    respOf (.conv .t16 1 1333333) (idle base []) = (42666, 0) ∧ respOf (.conv .t16 0 2000000) (idle base []) = (32000, 0) ∧
    respOf (.conv .t8 0 1007936) (idle base []) = (125, 0) ∧ respOf (.conv .t8 0 1007937) (idle base []) = (126, 0) ∧
    respOf (.conv .t8 0 1999999) (idle base []) = (250, 0) := by decide

/-- 95_test_vectors.md S11 and V-CONV: the sentinel comes before the range check, and an out-of-range duration raises no
fault without the hardware either. -/
theorem test_conv_sentinel_and_draw :
    respOf (.conv .t16 2 1500000) (idle base []) = (0, 1) ∧ respOf (.conv .t16 15 500000) (idle base []) = (0, 1) ∧
    (does (.conv .t16 0 0) (idle (cfg .ref false .scaleFirst .max) [])).resp.status = 0 ∧
    (does (.conv .t16 0 0) (idle (cfg .ref false .scaleFirst .max) [])).fault = none := by decide

/-- 95_test_vectors.md V-WR/RD: IFLG is write-one-to-clear, and the running writes that are no hazard. -/
theorem test_wr_effect :
    (does (.wr .t16 .iflg 1) { idle base [] with t16 := { quiet 16 with iflg := 3 } }).t16.iflg = 2 ∧
    (does (.wr .t16 .iflg 0) { idle base [] with t16 := { quiet 16 with iflg := 3 } }).t16.iflg = 3 ∧
    (does (.wr .t16 .cmpA 8000) (running base [])).t16.cmpA = 8000 ∧ (does (.wr .t16 .per 50) (running base [])).per = 50 ∧
    (does (.wr .t16 .ctrlB 0) (running base [])).t16 = { busy16 with ctrlB := 0 } := by decide

/-- 95_test_vectors.md V-WR/RD: the running-write hazard changes nothing but FAULT. -/
theorem test_wr_hazard :
    exec (.wr .t16 .iflg 1) (running base []) = .next { running base [] with
      fault := some ⟨.hazardRunningWrite, 0, some 0x5070000000000001, .controller⟩ } ∧
    ((does (.wr .t16 .ctrlA 7) (running base [])).fault.map (·.code)) = some .hazardRunningWrite := by
  constructor
  · rfl
  · decide

/-- 95_test_vectors.md V-WR/RD: reading IFLG does not clear it. -/
theorem test_rd :
    respOf (.rd .t16 .iflg) { idle base [] with t16 := { quiet 16 with iflg := 1 } } = (1, 0) ∧
    (does (.rd .t16 .iflg) { idle base [] with t16 := { quiet 16 with iflg := 1 } }).t16.iflg = 1 ∧
    respOf (.rd .t16 .cnt) (completes (.prepare .t16) (running base [])) = (0xFFFF, 0) ∧
    respOf (.rd .t8 .dir) (running base []) = (1, 0) := by decide

/-- 43_timer_operations.md R184's example, and the T8 pin of R183. -/
theorem test_prepare :
    (completes (.prepare .t16) (running base [])).t16 =
      { busy16 with ctrlA := 7, ctrlB := 0, cnt := 0xFFFF, clken := 1, imsk := 3, iflg := 0 } ∧
    (completes (.prepare .t16) (idle base [])).per = 32000 ∧
    (completes (.prepare .t8) (running base [])).t8.cmpA = 0xFF ∧
    (completes (.prepare .t16) (idle base [])).phase .t16 = .configured := by decide

/-- 43_timer_operations.md R185: the code of the frequency in force, whatever the phase. -/
theorem test_start :
    (does (.start .t8) (completes (.prepare .t8) (idle base []))).t8.ctrlB = 3 ∧
    (does (.start .t16) (idle (cfg .alt true .scaleFirst .max) [])).t16.ctrlB = 2 ∧
    (does (.start .t8) (completes (.prepare .t8) (idle base []))).phase .t8 = .running ∧
    (does (.start .t16) (idle base [])).phase .t16 = .other := by decide

/-- 43_timer_operations.md R187's example, and program P3 of 95_test_vectors.md. -/
theorem test_pulse :
    (completes (.pulse .t16 24000 16000) (running base [])).t16 =
      { busy16 with ctrlA := 7, ctrlB := 1, cnt := 0xFFFF, cmpA := 8000, cmpB := 16000, dir := 3, clken := 1 } ∧
    (completes (.pulse .t8 188 125) (running base [])).t8.cmpA = 63 ∧
    (completes (.pulse .t8 188 125) (running base [])).t8.cmpB = 126 ∧
    (completes (.pulse .t8 188 125) (idle base [])).phase .t8 = .running := by decide

/-- The priority of checks of 95_test_vectors.md V-FAULT, on PULSE and PULSEA. -/
theorem test_pulse_range :
    (does (.pulse .t16 32001 0) (running base [])).refused = some ⟨.pulseRange, 0, 0x9000000000007D01⟩ ∧
    (does (.pulse .t16 32001 0) (running base [])).t16 = busy16 ∧
    (does (.pulseA .t16 40000) (running base [])).refused = some ⟨.pulseRange, 0, 0xA000000000009C40⟩ ∧
    (does (.pulseA .t16 40000) (idle (cfg .ref false .scaleFirst .max) [])).fault =
      some ⟨.unavailable, 0, some 0xA000000000009C40, .controller⟩ := by decide

/-- 43_timer_operations.md R190's example, CMPB and DIRB kept, and 95_test_vectors.md V-FAULT at F_CPU = ALT. -/
theorem test_pulseA :
    (completes (.pulseA .t16 24000) (running base [])).t16.cmpA = 8000 ∧
    (completes (.pulseA .t16 24000) (running base [])).t16.cmpB = 16000 ∧
    (completes (.pulseA .t16 24000) (running base [])).t16.dir = 3 ∧
    (completes (.pulseA .t16 24000) (idle base [])).t16.dir = 1 ∧
    (completes (.pulseA .t16 40000) (running (cfg .alt true .scaleFirst .max) [])).t16.cmpA = 24000 := by decide

/-- 43_timer_operations.md R191's example: on T8, CMPA = 0xFF; and the refusal of 252. -/
theorem test_pulseB :
    (completes (.pulseB .t8 251) (running base [])).t8.cmpB = 0 ∧
    (completes (.pulseB .t8 251) (running base [])).t8.cmpA = 0xFF ∧
    (completes (.pulseB .t8 251) (idle base [])).t8.dir = 2 ∧
    (does (.pulseB .t8 252) (running base [])).refused = some ⟨.pulseRange, 0, 0xB8000000000000FC⟩ := by decide

/-- 43_timer_operations.md R192: STOP leaves everything but the mode registers and the gate. -/
theorem test_stop :
    (completes (.stop .t16) (running base [])).t16 = { busy16 with ctrlA := 0, ctrlB := 0, clken := 0 } ∧
    (completes (.stop .t16) (running base [])).per = 32000 ∧
    (completes (.stop .t8) (running base [])).phase .t8 = .stopped ∧
    (completes (.stop .t16) (running base [])).pin .t16 .b = .ext := by decide

/-- 95_test_vectors.md V-FAULT: an illegal word wins over the missing hardware. -/
theorem test_illegal_word :
    (stateOf (idle base []) (step { idle (cfg .ref false .scaleFirst .max) [0x5830000000000000] with
      sched := [.controller] })).fault = some ⟨.illegalCommand, 0, some 0x5830000000000000, .controller⟩ := by decide

/-! ## Ticks, refreshes, pins -/

/-- A tick of T16 from the count, TOP, CMPA, IFLG and latch A given: the count, IFLG and latch A after it. -/
def tick16 (ctrlA cnt top cmpA iflg : Nat) (oc : Bool) : Nat × Nat × Bool :=
  let t : Timer 16 := { busy16 with
    ctrlA := BitVec.ofNat 8 ctrlA, cnt := BitVec.ofNat 16 cnt, cmpA := BitVec.ofNat 16 cmpA, cmpB := 0xFFFE,
    iflg := BitVec.ofNat 8 iflg, ocA := oc }
  let u := t.tick (BitVec.ofNat 16 top)
  (u.cnt.toNat, u.iflg.toNat, u.ocA)

/-- 95_test_vectors.md V-TICK, rows 1 to 8. -/
theorem test_tick_t16 :
    tick16 7 0xFFFF 32000 8000 0 true = (0, 0, false) ∧ tick16 7 8000 32000 8000 0 false = (8001, 1, true) ∧
    tick16 7 8001 32000 8000 1 true = (8002, 1, true) ∧ tick16 7 32000 32000 32000 0 false = (0, 1, false) ∧
    tick16 7 32000 32000 0xFFFF 0 true = (0, 0, false) ∧ tick16 7 40000 32000 40000 0 false = (40001, 0, false) ∧
    tick16 7 0xFFFF 32000 0xFFFF 0 false = (0, 0, false) ∧ tick16 7 0 0 0 0 false = (0, 1, false) := by decide

/-- 95_test_vectors.md V-TICK, rows 9 to 11. -/
theorem test_tick_t8 :
    ({ busy8 with cnt := 255, cmpA := 255, ocA := true }.tick 255).ocA = false ∧
    ({ busy8 with cnt := 255, cmpA := 255, ocA := true }.tick 255).iflg = 1 ∧
    ({ busy8 with cnt := 63, iflg := 1 }.tick 255).ocA = true ∧ ({ busy8 with cnt := 63, iflg := 1 }.tick 255).cnt = 64 ∧
    ({ busy8 with ctrlA := 6, cnt := 63 }.tick 255).ocA = false ∧
    ({ busy8 with ctrlA := 6, cnt := 63 }.tick 255).iflg = 1 := by
  decide

/-- 95_test_vectors.md V-TICK, the fault and enable cases. -/
theorem test_tick_faults :
    ((running base []).counterStep .t16).fault = none ∧
    ({ running base [] with t16 := { busy16 with ctrlA := 3 } }.counterStep .t16).fault =
      some ⟨.unmodelledMode, 0, none, .counter .t16⟩ ∧
    ({ running base [] with t16 := { busy16 with ctrlB := 5 } }.counterStep .t16).fault =
      some ⟨.unmodelledMode, 0, none, .counter .t16⟩ ∧
    { running base [] with t16 := { busy16 with clken := 0 } }.enabled (.counter .t16) = false ∧
    { running base [] with t16 := { busy16 with ctrlB := 0 } }.enabled (.counter .t16) = false := by decide

/-- 95_test_vectors.md V-REFRESH, rows 1, 2, 3, 5 and 6. -/
theorem test_refresh :
    ({ running base [] with t16 := { busy16 with iflg := 1 } }.refreshStep .t16 .a).t16 =
      { busy16 with cmpA := 0xFFFF } ∧
    ({ running (cfg .ref true .scaleFirst .top) [] with t16 := { busy16 with iflg := 1 } }.refreshStep .t16 .a).t16.cmpA =
      32000 ∧
    { running base [] with t16 := { busy16 with iflg := 1, imsk := 2 } }.enabled (.refresh .t16 .a) = false ∧
    ({ running base [] with t8 := { busy8 with iflg := 2 } }.refreshStep .t8 .b).t8 = { busy8 with cmpB := 0xFF } ∧
    { running base [] with t16 := { busy16 with iflg := 1, clken := 0, ctrlB := 0 } }.enabled (.refresh .t16 .a) = true := by
  decide

/-- 95_test_vectors.md V-PIN. -/
theorem test_pin :
    (running base []).pin .t16 .a = .hiZ ∧ (running base []).pin .t16 .b = .low ∧ (running base []).pin .t8 .a = .low ∧
    { running base [] with t16 := { busy16 with dir := 1 } }.pin .t16 .a = .high ∧
    { running base [] with t16 := { busy16 with dir := 1, ctrlA := 6 } }.pin .t16 .a = .ext := by decide

/-- 95_test_vectors.md P1, ticks 1 to 6 of the continuation: the latch of channel A, and the count after the sixth. -/
theorem test_period_of_five :
    let s : State := { idle base [] with t16 := { busy16 with cnt := 0xFFFF, cmpA := 1, cmpB := 5, imsk := 0 }, per := 4 }
    ((List.range 6).map fun n => (s.ticks .t16 (n + 1)).t16.ocA) = [false, false, true, true, true, false] ∧
    (s.ticks .t16 6).t16.cnt = 0 ∧ (s.ticks .t16 6).t16.iflg = 1 := by decide

/-- 95_test_vectors.md P1, ticks 1 to 11 of the continuation, with pin A an output and then an input: the pin is High for ticks
3, 4, 5, 8, 9 and 10. A refresh of the other peripheral in between is a step of the trace but no tick of T16. -/
theorem test_high_ticks :
    let s : State := { idle base [] with
      t16 := { busy16 with cnt := 0xFFFF, cmpA := 1, cmpB := 5, imsk := 0, dir := 1 }, per := 4
      t8 := { busy8 with iflg := 1 } }
    s.highTicksAfter .t16 .a (List.replicate 11 (.counter .t16)) = some 6 ∧
    s.highTicksAfter .t16 .a (List.replicate 4 (.counter .t16) ++ [.refresh .t8 .a]) = some 2 ∧
    { s with t16 := { s.t16 with dir := 0 } }.highTicksAfter .t16 .a (List.replicate 11 (.counter .t16)) = some 0 := by
  decide

/-- 43_timer_operations.md R193: during PULSEA T16 from reset pin A turns from HiZ to driven at DIROR, the tenth micro-step; with
its direction already output it turns from Ext to the latch at the eighth, which sets COMA_EN. -/
theorem test_pins_during_command :
    let s (dir : Byte) : State :=
      { idle base [0xA000000000005DC0] with t16 := { quiet 16 with dir := dir } }
    let trace (dir : Byte) : Option (List Pin) :=
      ((s dir).interleave (List.replicate 11 .controller)).map fun run => (pinTrace .t16 run).map (·.1)
    trace 0 = some (List.replicate 9 .hiZ ++ [.low, .low]) ∧
    trace 1 = some (List.replicate 7 .ext ++ [.low, .low, .low, .low]) := by decide

/-- 95_test_vectors.md P6, the program of its first two commands on a target without the hardware: the RESP history, and no
register to observe. -/
theorem test_observation_p6 :
    let s := idle (cfg .alt false .scaleFirst .max) [0x4000000000000000, 0x301000000016E360]
    ((s.interleave [.controller, .controller]).map fun run => respHistory (s :: run)) = some [⟨2, 0⟩, ⟨48000, 0⟩] ∧
    ((s.interleave [.controller, .controller]).map fun run => run.map (·.atEnd)) = some [false, true] ∧
    s.registers .t16 .cnt = none ∧ (idle base []).registers .t8 .per = none ∧
    (running base []).registers .t16 .per = some 32000 := by decide

/-- 95_test_vectors.md P7: at the end of START with CLKEN.EN = 1 and no PREPARE the observation is not defined, although a run
that never lets the counter step meets no fault; with EN = 0 nothing steps and it is. -/
theorem test_observation_p7 :
    ¬({ idle base [] with t16 := { quiet 16 with ctrlB := 1, clken := 1 } } : State).SafeAfter ∧
    ({ idle base [] with t16 := { quiet 16 with ctrlB := 1 } } : State).SafeAfter :=
  ⟨not_safeAfter_of_unmodelledMode (p := .t16) (by decide) (by decide), safeAfter_of_no_agent (by decide) (by decide)⟩

/-! ## The step, the interface and the assembler -/

/-- The interleaving names the agent that steps; a disabled agent in it is passed over. -/
theorem test_step_schedule :
    (stateOf (idle base []) (step { running base [] with sched := [.refresh .t16 .a, .counter .t8] })).t8.cnt = 63 ∧
    (stateOf (idle base []) (step { running base [] with sched := [.counter .t16] })).t16.cnt = 101 := by decide

/-- With one enabled agent it moves; with none the step stops by name. -/
theorem test_step_single :
    (stateOf (idle base []) (step (idle base [encode .caps]))).pc = 1 ∧
    step (idle base []) = .fault .noEnabledStep ∧
    step { idle base [] with fault := some ⟨.unavailable, 0, none, .controller⟩ } = .fault (.halted .unavailable) ∧
    step { idle base [] with refused := some ⟨.pulseRange, 0, 0⟩ } = .refused (.halted .pulseRange) := by
  refine ⟨by decide, rfl, rfl, rfl⟩

/-- The host's word is the next the machine runs, from reset: BIT 1 (30_encoding.md R97) and the all-zero word (R99). -/
theorem test_withFetchWord :
    (stateOf State.reset (step (State.reset.withFetchWord 64 0x2010000000000000))).resp = ⟨2, 0⟩ ∧
    ((stateOf State.reset (step (State.reset.withFetchWord 64 0))).fault.map (·.code)) = some .illegalCommand := by
  decide

/-- 30_encoding.md R102: text to words. -/
theorem test_assemble :
    assemble ["-- a comment", "WR T8, IFLG, 0x03", "CONV T16, #2, 1_500_000", "CONV T8, 1,500,000"] =
      some [0x5870000000000003, 0x302000000016E360, 0x380000000016E360] ∧
    assemble ["PULSE T16, 24000, 16000", "CAPS"] = some [0x900000003E805DC0, 0x4000000000000000] ∧
    assemble ["WR T8, PER, 0"] = none ∧ assemble ["PULSE T16 24000 16000"] = none ∧ assemble ["START, T16"] = none ∧
    assemble ["START T16,"] = none ∧ assemble ["PULSEA T16, 24000,,"] = none ∧
    assemble ["PULSEA T16, 24,000"] = some [0xA000000000005DC0] := by decide

/-- The text of a command (30_encoding.md R102). -/
theorem test_lineOf :
    lineOf (.conv .t16 1 1000000) = "CONV T16, ALT, 1000000".toList ∧ lineOf (.bit 7) = "BIT 7".toList := by decide

/-! ## Witnesses of the statements' hypotheses -/

theorem test_witness_DecodeOfEncodeIsCommand :
    (Instr.conv .t8 0 0xFFFFFFFF).wf = true ∧ (Instr.wr .t8 .cmpB 255).wf = true ∧ (Instr.pulseB .t16 65535).wf = true := by
  decide

theorem test_witness_EncodeOfDecodeIsWord :
    decode 0x9800000000FF00FF = .cmd (.pulse .t8 255 255) ∧ decode 0x5030000000000000 = .cmd (.wr .t16 .per 0) := by decide

theorem test_witness_CommandIffRowOfOpcodeTable :
    (idle base [0xD000000000000000]).issues 0xD000000000000000 ∧
      ∀ op : Op, op.rowAccepts 0xD000000000000000 = false := by
  refine ⟨⟨⟨rfl, rfl⟩, rfl, rfl⟩, fun op => ?_⟩
  cases op <;> decide

theorem test_witness_IllegalCommandCauses :
    (idle base [0x5830000000000000]).issues 0x5830000000000000 ∧
      decode 0x5830000000000000 = .illegal .noSuchRegister := ⟨⟨⟨rfl, rfl⟩, rfl, rfl⟩, by decide⟩

theorem test_witness_ReservedFieldRaisesIllegal :
    (idle base [0x7100000000000000]).issues 0x7100000000000000 ∧
      (idle base [0x7100000000000000]).choose = some (.controller, idle base [0x7100000000000000]) ∧
      (0x7100000000000000 : Word).extractLsb' 56 3 ≠ 0 ∧ (0x7000000100000000 : Word).extractLsb' 32 20 ≠ 0 :=
  ⟨⟨⟨rfl, rfl⟩, rfl, rfl⟩, rfl, by decide, by decide⟩

theorem test_witness_StepRunsDecodedCommand :
    (issuing base .caps).issues (encode .caps) ∧ decode (encode .caps) = .cmd .caps ∧
      (issuing base .caps).choose = some (.controller, idle base [encode .caps]) :=
  ⟨⟨⟨rfl, rfl⟩, rfl, rfl⟩, by decide, rfl⟩

/-- The two clauses: a queue of two micro-steps, and a queue of one. -/
theorem test_witness_StepExecutesHeadMicroStep :
    let two : State := { idle base [0] with uq := [.w .t16 .iflg 3, .dirOr .t16 1], sched := [.controller] }
    let one : State := { idle base [0] with uq := [.dirOr .t16 1], sched := [.controller] }
    (two.live ∧ two.choose = some (.controller, { two with sched := [] }) ∧
      (MicroStep.w .t16 .iflg 3).hazard two = false) ∧
    (one.live ∧ one.choose = some (.controller, { one with sched := [] }) ∧ (MicroStep.dirOr .t16 1).hazard one = false) :=
  ⟨⟨⟨rfl, rfl⟩, rfl, by decide⟩, ⟨rfl, rfl⟩, rfl, by decide⟩

theorem test_witness_AnyEnabledAgentMayStep :
    (∃ t, step (idle base [encode .caps]) = .next t) ∧
      (running base []).enabled (.counter .t8) = true ∧
      ({ running base [] with sched := [.counter .t8, .controller] } : State).sched = .counter .t8 :: [.controller] :=
  ⟨⟨_, rfl⟩, by decide, rfl⟩

theorem test_witness_HaltedMachineTakesNoStep :
    { running base [] with fault := some ⟨.unmodelledMode, 0, none, .counter .t8⟩ }.fault ≠ none ∧
      { running base [] with refused := some ⟨.pulseRange, 0, 0⟩ }.refused ≠ none := by decide

theorem test_witness_ConfigurationNeverChanges :
    ∃ t, step { running base [] with sched := [.counter .t16] } = .next t := ⟨_, rfl⟩

theorem test_witness_PcAdvancesOnlyAtCompletion :
    (issuing base .caps).pcInProgram ∧ ∃ t, step (issuing base .caps) = .next t :=
  ⟨⟨by decide, by decide⟩, ⟨_, rfl⟩⟩

theorem test_witness_ReservedBitsStayClear :
    { running base [] with sched := [.counter .t16] }.reservedClear ∧
      ∃ t, step { running base [] with sched := [.counter .t16] } = .next t := by
  refine ⟨⟨⟨?_, ?_, ?_, ?_, ?_, ?_⟩, ?_, ?_, ?_, ?_, ?_, ?_⟩, ⟨_, rfl⟩⟩ <;> decide

theorem test_witness_ResetEnablesOnlyController : (State.launch base [0]).enabled .controller = true := rfl

theorem test_witness_LimitLaws : (0 : Operand).toNat ≤ (4294967295 : Operand).toNat := by decide

/-- The pure commands in two states that differ in every register, with and without the hardware. -/
theorem test_witness_PureCommandsReadNoRegister :
    (Instr.conv .t8 0 1500000).wf = true ∧ (Instr.conv .t8 0 1500000).op ∈ [Op.limit, .bit, .conv, .caps] ∧
      (idle base []).cfg = (running base []).cfg ∧ (idle base []).draws = (running base []).draws := by decide

/-- Both ends of each range of codes and of durations. -/
theorem test_witness_ConvT16SelectsFrequency :
    (2 ≤ (2 : BitVec 4).toNat ∧ 2 ≤ (15 : BitVec 4).toNat) ∧ ((0 : BitVec 4).toNat < 2 ∧ (1 : BitVec 4).toNat < 2) ∧
      (999999 : Operand).toNat < 1000000 ∧ 2000000 < (2000001 : Operand).toNat ∧
      (1000000 ≤ (1000000 : Operand).toNat ∧ (1000000 : Operand).toNat ≤ 2000000) ∧
      (1000000 ≤ (2000000 : Operand).toNat ∧ (2000000 : Operand).toNat ≤ 2000000) := by decide

theorem test_witness_ConvScalesInRange :
    1000000 ≤ (1000000 : Operand).toNat ∧ (2000000 : Operand).toNat ≤ 2000000 := by decide

/-- Both forms, both frequency codes, and the durations next to each end of the range. -/
theorem test_witness_ConvOutOfRangeIsADraw :
    ((0 : BitVec 4).toNat < 2 ∧ (1 : BitVec 4).toNat < 2) ∧ (999999 : Operand).toNat < 1000000 ∧
      2000000 < (2000001 : Operand).toNat := by decide

theorem test_witness_ConvLawsOnRange :
    (1000000 : Operand).toNat ≤ (1000001 : Operand).toNat ∧ (1000001 : Operand).toNat ≤ 2000000 := by decide

theorem test_witness_ConvOrdersDifferByAtMostOne :
    scale16 .inputFirst .ref 1000063 = 16000 ∧ scale16 .scaleFirst .ref 1000063 = 16001 := by decide

/-- Three forms: a running write of another register at its greatest value, and IFLG and CTRLA while stopped. -/
theorem test_witness_WrWritesOneRegister :
    (Instr.wr .t16 .per 65535).wf = true ∧ (Instr.wr .t8 .iflg 3).wf = true ∧ (Instr.wr .t8 .ctrlA 7).wf = true ∧
      (running base []).cfg.hasTimerHw = true ∧ ((idle base []).timer .t8).cs = 0 := by decide

/-- Running writes of CTRLA, IFLG and CMPA, and a write of CTRLA while stopped. -/
theorem test_witness_RunningWriteRaisesHazard :
    (Instr.wr .t16 .ctrlA 7).wf = true ∧ (Instr.wr .t16 .iflg 3).wf = true ∧ (Instr.wr .t16 .cmpA 65535).wf = true ∧
      (running base []).cfg.hasTimerHw = true ∧ ((running base []).timer .t16).cs ≠ 0 ∧
      (idle base []).cfg.hasTimerHw = true ∧ ((idle base []).timer .t16).cs = 0 := by decide

theorem test_witness_RdReadsRegister :
    Reg.presentOn .t16 .per = true ∧ Reg.presentOn .t8 .clken = true ∧ (running base []).cfg.hasTimerHw = true := by decide

theorem test_witness_RdAfterWrReturnsValue :
    (Instr.wr .t8 .cmpB 255).wf = true ∧ (Instr.wr .t16 .ctrlA 7).wf = true ∧ (idle base []).cfg.hasTimerHw = true ∧
      ((idle base []).timer .t16).cs = 0 := by decide

theorem test_witness_UnavailableWithoutHardware :
    (Instr.wr .t16 .ctrlA 7).wf = true ∧ (Instr.pulseA .t16 65535).wf = true ∧
      (Instr.pulseA .t16 65535).op ∈ [Op.wr, .rd, .prepare, .start, .pulse, .pulseA, .pulseB, .stop] ∧
      (running (cfg .ref false .scaleFirst .max) []).cfg.hasTimerHw = false := by decide

/-- The greatest values of each form, in a live state with the hardware: the hypotheses of the statements about PREPARE,
START, PULSE, PULSEA, PULSEB and STOP. -/
theorem test_witness_TimerOperations :
    (running base []).live ∧ (running base []).cfg.hasTimerHw = true ∧
      (32000 : BitVec 16).toNat ≤ outMax .t16 (running base []).cfg.fCpu ∧
      (251 : BitVec 16).toNat ≤ outMax .t8 (running base []).cfg.fCpu ∧
      (251 : Operand).toNat ≤ outMax .t8 (running base []).cfg.fCpu ∧
      (64000 : Operand).toNat ≤ outMax .t16 (running (cfg .alt true .scaleFirst .max) []).cfg.fCpu :=
  ⟨⟨rfl, rfl⟩, rfl, by decide, by decide, by decide, by decide⟩

/-- The greatest value admitted and the least refused, on both peripherals. -/
theorem test_witness_PulseRangeRefusal :
    ((Instr.pulse .t16 32000 32001).wf = true ∧ outMax .t16 .ref < (32001 : BitVec 16).toNat ∧
      (32000 : BitVec 16).toNat ≤ outMax .t16 .ref) ∧
    ((Instr.pulseA .t8 252).wf = true ∧ outMax .t8 .ref < (252 : Operand).toNat ∧
      (251 : Operand).toNat ≤ outMax .t8 .ref) := by decide

theorem test_witness_InversionDoesNotWrap : 251 ≤ outMax .t8 .alt ∧ 0 ≤ outMax .t16 .ref ∧ inv .t8 .alt 251 = 0 := by decide

theorem test_witness_PhaseAfterEachOperation : (completes (.prepare .t8) (running base [])).phase .t8 = .configured := by
  decide

/-- The state after the first micro-step of PULSEA T16, 24000. -/
def pulsing : State := does (.pulseA .t16 24000) (running base [encode (.pulseA .t16 24000)])

/-- An interleaving of the other ten micro-steps with ticks of T8, the last agent's step completing the command. -/
def pulsingRest : List Agent := .counter .t8 :: .counter .t8 :: List.replicate 10 .controller

theorem test_witness_PulseUnderEveryInterleaving :
    let s := running base [encode (.pulseA .t16 24000)]
    s.issues (encode (.pulseA .t16 24000)) ∧ s.cfg.hasTimerHw = true ∧ (24000 : Operand).toNat ≤ outMax .t16 s.cfg.fCpu ∧
      exec (.pulseA .t16 24000) s = .next pulsing ∧ ((pulsing.after pulsingRest).map (·.pc)) = some 1 ∧
      (∀ n, n < pulsingRest.length → ((pulsing.after (pulsingRest.take n)).map (·.pc)) = some s.pc) :=
  ⟨⟨⟨rfl, rfl⟩, rfl, rfl⟩, rfl, by decide, rfl, by decide, by decide⟩

/-- The same for PULSEB T8, 251 with a refresh of channel B pending, which runs between the micro-steps: it leaves CMPB to the
command and CMPA to the pin. -/
theorem test_witness_PulseUnderEveryInterleaving_t8 :
    let s : State := { running base [encode (.pulseB .t8 251)] with t8 := { busy8 with iflg := 2 } }
    let as : List Agent := .controller :: .refresh .t8 .b :: List.replicate 9 .controller
    s.issues (encode (.pulseB .t8 251)) ∧ s.cfg.hasTimerHw = true ∧ (251 : Operand).toNat ≤ outMax .t8 s.cfg.fCpu ∧
      (((does (.pulseB .t8 251) s).after as).map fun t => (t.pc, t.t8.cmpA, t.t8.cmpB)) = some (1, 0xFF, 0) :=
  ⟨⟨⟨rfl, rfl⟩, rfl, rfl⟩, rfl, by decide, by decide⟩

/-- A composite command during which a counter faults: the hypotheses of the statement, with a fault to speak of. -/
theorem test_witness_CompositesNeverRaiseHazard :
    let s : State := { running base [encode (.pulseA .t16 24000)] with t8 := { busy8 with ctrlA := 0 } }
    (Instr.pulseA .t16 24000).op ∈ [Op.prepare, .start, .pulse, .pulseA, .pulseB, .stop] ∧ s.live ∧ s.uq = [] ∧
      ∃ s1 t r, exec (.pulseA .t16 24000) s = .next s1 ∧ s1.after [.counter .t8] = some t ∧ t.pc = s.pc ∧
        t.fault = some r :=
  ⟨by decide, ⟨rfl, rfl⟩, rfl, _, _, _, rfl, rfl, rfl, rfl⟩

/-- A code outside CS_VALID, and PWM = 0. -/
theorem test_witness_UnmodelledModeRaisesFault :
    (∀ c ∈ base.csValid.get .t16, ({ busy16 with ctrlB := 5 } : Timer 16).ctrlB &&& 0x07 ≠ BitVec.ofNat 8 c.value) ∧
      ({ busy16 with ctrlA := 3 } : Timer 16).ctrlA.getLsbD 2 = false := by decide

theorem test_witness_TickCountsMatchesAndWraps :
    (∃ c ∈ base.csValid.get .t8, busy8.ctrlB &&& 0x07 = BitVec.ofNat 8 c.value) ∧ busy8.ctrlA.getLsbD 2 = true :=
  ⟨⟨.c3, by decide, by decide⟩, by decide⟩

/-- A T16 at the start of a period with the given PER and CMPA. -/
def periodStart (per cmpA : BitVec 16) : State :=
  { running base [] with t16 := { busy16 with cnt := 0, cmpA := cmpA, dir := 1, ocA := false }, per := per }

/-- The hypotheses of the statement about the period, for channel A of T16. -/
def StartsPeriod (per cmpA : BitVec 16) : Prop :=
  (periodStart per cmpA).modelledMode .t16 = true ∧ ((periodStart per cmpA).timer .t16).comEn .a = true ∧
    ((periodStart per cmpA).timer .t16).cnt = 0 ∧ ((periodStart per cmpA).timer .t16).oc .a = false ∧
    ((periodStart per cmpA).timer .t16).dirBit .a = true

theorem startsPeriod (per cmpA : BitVec 16) : StartsPeriod per cmpA := by
  simp only [StartsPeriod, periodStart, State.timer, Timer.oc]
  exact ⟨(by decide : (running base []).modelledMode .t16 = true), (by decide : busy16.comEn .a = true), trivial,
    trivial, (by decide : ({ busy16 with dir := 1 } : Timer 16).dirBit .a = true)⟩

/-- CMPA below TOP, at TOP and above it, the greatest TOP, and a period of one tick. -/
theorem test_witness_HighTimePerPeriod :
    StartsPeriod 4 1 ∧ StartsPeriod 4 4 ∧ StartsPeriod 4 5 ∧ StartsPeriod 65535 0 ∧ StartsPeriod 0 0 :=
  ⟨startsPeriod _ _, startsPeriod _ _, startsPeriod _ _, startsPeriod _ _, startsPeriod _ _⟩

/-- The state a pulse of the greatest value leaves on T16, and of the least on T8. -/
theorem test_witness_OnePulsePerCommand :
    let s := completes (.pulseA .t16 32000) (running base [])
    let u := completes (.pulseB .t8 0) (running base [])
    (s.fault = none ∧ s.refused = none ∧ s.cfg.hasTimerHw = true ∧ s.modelledMode .t16 = true ∧ s.t16.ctrlA = 0x07 ∧
      s.t16.cnt = BitVec.allOnes 16 ∧ s.t16.imsk = 0x03 ∧ s.t16.iflg = 0x00 ∧
      s.per = BitVec.ofNat 16 (outMax .t16 s.cfg.fCpu) ∧ s.t16.cmpA.toNat = outMax .t16 s.cfg.fCpu - 32000 ∧
      s.t16.dirBit .a = true) ∧
    (u.fault = none ∧ u.refused = none ∧ u.cfg.hasTimerHw = true ∧ u.modelledMode .t8 = true ∧ u.t8.ctrlA = 0x07 ∧
      u.t8.cnt = BitVec.allOnes 8 ∧ u.t8.imsk = 0x03 ∧ u.t8.iflg = 0x00 ∧
      u.t8.cmpB.toNat = outMax .t8 u.cfg.fCpu - 0 ∧ u.t8.dirBit .b = true) := by decide

/-- A machine with three refreshes pending and both counters running. -/
def pending : State :=
  { running base [] with t16 := { busy16 with iflg := 3 }, t8 := { busy8 with iflg := 1 } }

theorem test_witness_RefreshesCommute :
    pending.enabled (.refresh .t16 .a) = true ∧ pending.enabled (.refresh .t16 .b) = true ∧
      pending.enabled (.refresh .t8 .a) = true := by decide

theorem test_witness_PeripheralsAreIndependent :
    pending.modelledMode .t8 = true ∧ pending.enabled (.refresh .t16 .b) = true ∧
      pending.enabled (.counter .t8) = true := by decide

theorem test_witness_AgentsWriteOnlyWhatTheyOwn :
    (∃ t, (issuing base .caps).agentStep .controller = .next t) ∧ (∃ t, pending.agentStep (.counter .t16) = .next t) ∧
      ∃ t, pending.agentStep (.refresh .t8 .a) = .next t := ⟨⟨_, rfl⟩, ⟨_, rfl⟩, ⟨_, rfl⟩⟩

/-- A stopped T16 with a flag still pending after the end of the program. -/
def leftover : State := { idle base [] with t16 := { quiet 16 with imsk := 3, iflg := 1 } }

/-- Its one execution: the refresh, and then no agent has an enabled step. -/
def served : Execution := Execution.oneStep leftover (leftover.refreshStep .t16 .a) (.refresh .t16 .a)

theorem served_countedFrom : served.CountedFrom leftover :=
  oneStep_countedFrom (s := leftover) (a := .refresh .t16 .a) rfl (by decide)

theorem test_witness_FairExecutionServesRefresh :
    served.Valid ∧ served.WeaklyFair ∧ (served.state 0).atEnd = true ∧
      (served.state 0).enabled (.refresh .t16 .a) = true :=
  ⟨served_countedFrom.1.1, served_countedFrom.1.2, by decide, by decide⟩

/-- The pin trace of that execution has one entry, the pins after its one step, and no high tick. -/
theorem test_pinTrace :
    served.pinTrace .t16 0 = some (.hiZ, .hiZ) ∧ served.pinTrace .t16 1 = none ∧ served.highTicks .t16 .a 5 = 0 ∧
      (served.observation 1).runTrace .t16 = [(.hiZ, .hiZ)] ∧
      served.pinTrace ∈ leftover.pinTraces :=
  ⟨by decide, rfl, by decide, by decide, served, served_countedFrom, rfl⟩

end Sys2Proof.Tests
end

/-! Proofs of the family 10_state.md: the reset values, the peripheral constants, and which agent writes what. -/

namespace Sys2Proof.Machine

/-! ### Reset values (10_state.md R47, R48) -/

/-- Each peripheral starts at its own reset values, the draws among them taken from some point of the run on. -/
theorem launch_timer (cfg : Config) (program : List Word) (p : Periph) :
    ∃ k, (State.launch cfg program).timer p = Timer.reset p.width k := by
  cases p with
  | t16 => exact ⟨0, rfl⟩
  | t8 => exact ⟨7, rfl⟩

/-- A single bit as a byte has no bit above bit 0. -/
theorem setWidth_bit_and_reserved (b : BitVec 1) : b.setWidth 8 &&& (0xFE : Byte) = 0 := by
  revert b; decide

/-- The reserved bits of CLKEN are 0 after reset, whatever the draw of its bit 0 (10_state.md R47). -/
theorem timerReset_clken_reserved (w k : Nat) : (Timer.reset w k).clken &&& 0xFE = 0 :=
  setWidth_bit_and_reserved _

/-- Settles O14: the controller's fields are those of `State.launch`, the control registers those of `Timer.reset`. -/
theorem resetValues : Obligations.ResetValues := by
  refine ⟨rfl, rfl, rfl, rfl, rfl, fun p => ?_⟩
  obtain ⟨k, hk⟩ := launch_timer Config.base [] p
  rw [State.reset, hk]
  exact ⟨rfl, rfl, rfl, rfl, rfl, timerReset_clken_reserved _ _⟩

/-! ### The Peripheral Configuration constants (10_state.md R49, R50) -/

@[simp] theorem outMax_t16_ref : outMax .t16 .ref = 32000 := rfl
@[simp] theorem outMax_t16_alt : outMax .t16 .alt = 64000 := rfl
@[simp] theorem outMax_t8 (f : Freq) : outMax .t8 f = 251 := by cases f <;> rfl

/-- OutMax fits the register (10_state.md R49). -/
theorem outMax_lt (p : Periph) (f : Freq) : outMax p f < 2 ^ p.width := by
  cases p with
  | t16 => cases f <;> decide
  | t8 => simp only [outMax_t8]; decide

/-- Settles O16: the rows of OutMax, and the definitions of OutMin and OutRange from it. -/
theorem peripheralConstants : Obligations.PeripheralConstants := by
  refine ⟨?_, ?_, fun f => ?_, fun p f => ⟨rfl, rfl, outMax_lt p f⟩⟩ <;> simp [outMin, outRange]

/-! ### The latches under a step of the controller (10_state.md R53) -/

section
variable {s t : State} (q : Periph) (y : Channel)

/-- The effect of a micro-step moves no latch. -/
@[simp] theorem effect_oc (m : MicroStep) : ((m.effect s).timer q).oc y = (s.timer q).oc y := by
  cases y with
  | a => exact effect_ocA s m q
  | b => exact effect_ocB s m q

/-- A register write moves no latch. -/
@[simp] theorem writeReg_oc (p : Periph) (r : Reg) (v : Operand) :
    ((s.writeReg p r v).timer q).oc y = (s.timer q).oc y := by
  cases y with
  | a => exact writeReg_ocA s p r v q
  | b => exact writeReg_ocB s p r v q

/-- Executing the first of some micro-steps moves no latch. -/
@[simp] theorem runMicro_oc (w : Option Word) (ms : List MicroStep) :
    ((s.runMicro w ms).timer q).oc y = (s.timer q).oc y := by
  cases ms with
  | nil => rfl
  | cons m rest =>
    obtain ⟨-, h⟩ | ⟨-, -, h⟩ | ⟨-, -, h⟩ := runMicro_cases s w m rest <;> simp [h]

/-- The checks of a command move no latch that the command itself does not move. -/
theorem checked_oc {run : State} (i : Instr) (p : Periph) (vs : List Nat)
    (hrun : (run.timer q).oc y = (s.timer q).oc y) :
    ((s.checked i p vs run).timer q).oc y = (s.timer q).oc y := by
  obtain h | h | h | ⟨-, h⟩ := checked_cases s i p vs run <;> simp [h, hrun]

/-- A composite command moves no latch. -/
theorem composite_oc (i : Instr) (p : Periph) (vs : List Nat) (steps : List MicroStep) :
    ((s.composite i p vs steps).timer q).oc y = (s.timer q).oc y :=
  checked_oc q y i p vs (runMicro_oc q y _ steps)

/-- A conversion writes no register of a peripheral. -/
@[simp] theorem completeConv_timer (w nanos scaled : Nat) :
    (s.completeConv w nanos scaled).timer q = s.timer q := by
  unfold State.completeConv; split <;> simp

/-- `conv16` writes no register of a peripheral. -/
@[simp] theorem conv16_timer (code : BitVec 4) (nanos : Nat) : (s.conv16 code nanos).timer q = s.timer q := by
  unfold State.conv16; split <;> simp

/-- `conv8` writes no register of a peripheral. -/
@[simp] theorem conv8_timer (nanos : Nat) : (s.conv8 nanos).timer q = s.timer q := completeConv_timer q _ _ _

/-- CONV writes no register of a peripheral, whether it is legal or not. -/
theorem execConv_timer {p : Periph} {code : BitVec 4} {nanos : Operand}
    (h : execConv p code nanos s = .next t) : t.timer q = s.timer q := by
  obtain rfl := Host.Outcome.next.inj h
  unfold State.legal
  split
  · simp
  · cases p <;> simp

/-- WR moves no latch. -/
theorem execWr_oc {p : Periph} {r : Reg} {v : Operand} (h : execWr p r v s = .next t) :
    (t.timer q).oc y = (s.timer q).oc y := by
  obtain rfl := Host.Outcome.next.inj h
  refine checked_oc q y _ p [] ?_
  split <;> simp

/-- No command moves a latch. -/
theorem exec_oc {i : Instr} (h : exec i s = .next t) : (t.timer q).oc y = (s.timer q).oc y := by
  cases i with
  | conv p code nanos => rw [execConv_timer q h]
  | wr p r v => exact execWr_oc q y h
  | limit | bit | caps => obtain rfl := Host.Outcome.next.inj h; simp
  | rd p r => obtain rfl := Host.Outcome.next.inj h; exact checked_oc q y _ p [] (by simp)
  | prepare | start | pulse | pulseA | pulseB | stop =>
    obtain rfl := Host.Outcome.next.inj h
    exact composite_oc q y _ _ _ _

/-- No step of the controller moves a latch: latches are the counters' (10_state.md R53). -/
theorem controllerStep_oc (h : s.controllerStep = .next t) : (t.timer q).oc y = (s.timer q).oc y := by
  unfold State.controllerStep at h
  split at h
  · obtain rfl := Host.Outcome.next.inj h
    exact runMicro_oc q y _ _
  · split at h
    · unfold State.runWord at h
      split at h
      · exact exec_oc q y h
      · obtain rfl := Host.Outcome.next.inj h
        simp
    · cases h

end

/-! ### What counter(P) and refresh(P, x) write (10_state.md R53) -/

section
variable (s : State) (p : Periph) (x : Channel)

/-- A flag that is set stays set over a tick (44_counter_waveform.md R215). -/
theorem tick_iflg_mono {w : Nat} (t : Timer w) (top : BitVec w) {i : Nat} (h : t.iflg.getLsbD i = true) :
    (t.tick top).iflg.getLsbD i = true := by
  simp [Timer.tick, h]

/-- The step of counter(P) writes CNT, IFLG and the latches of P, and FAULT, and nothing else. -/
theorem counterStep_frame :
    s.counterStep p =
      { s.setTimer p { s.timer p with
          cnt := ((s.counterStep p).timer p).cnt, iflg := ((s.counterStep p).timer p).iflg,
          ocA := ((s.counterStep p).timer p).ocA, ocB := ((s.counterStep p).timer p).ocB } with
        fault := (s.counterStep p).fault } := by
  cases hm : s.modelledMode p with
  | true => rw [counterStep_ticks s p hm, setTimer_timer]; rfl
  | false => rw [counterStep_faults s p hm, raiseFault_timer, setTimer_self]; rfl

/-- The step of counter(P) clears no flag of P. -/
theorem counterStep_iflg_mono {i : Nat} (h : (s.timer p).iflg.getLsbD i = true) :
    ((s.counterStep p).timer p).iflg.getLsbD i = true := by
  cases hm : s.modelledMode p with
  | true => rw [counterStep_ticks s p hm, setTimer_timer]; exact tick_iflg_mono _ _ h
  | false => rwa [counterStep_faults s p hm, raiseFault_timer]

/-- The step of refresh(P, x) writes CMPx and IFLG of P, and nothing else (60_exceptions.md R252). -/
theorem refreshStep_frame :
    s.refreshStep p x =
      s.setTimer p { (s.timer p).setCmp x (((s.refreshStep p x).timer p).cmp x) with
        iflg := ((s.refreshStep p x).timer p).iflg } := by
  cases x <;> simp [State.refreshStep, Timer.cmp, Timer.setCmp]

/-- The mask of a channel holds the channel's bit alone. -/
theorem channelMask_getLsbD (i : Nat) : x.mask.getLsbD i = decide (i = x.bitNo) := by
  have hmask : x.mask = BitVec.twoPow 8 x.bitNo := by cases x <;> rfl
  have hlt : x.bitNo < 8 := by cases x <;> decide
  rw [hmask, BitVec.getLsbD_twoPow, decide_eq_true hlt, Bool.true_and]
  exact decide_eq_decide.2 eq_comm

/-- The step of refresh(P, x) leaves every flag of P but that of x. -/
theorem refreshStep_iflg_ne {i : Nat} (h : i ≠ x.bitNo) :
    ((s.refreshStep p x).timer p).iflg.getLsbD i = (s.timer p).iflg.getLsbD i := by
  simpa [channelMask_getLsbD, h] using BitVec.lt_of_getLsbD

/-- The step of refresh(P, x) clears the flag of x (60_exceptions.md R252). -/
theorem refreshStep_iflg_same : ((s.refreshStep p x).timer p).iflg.getLsbD x.bitNo = false := by
  simp [channelMask_getLsbD]

end

/-- Settles O58: the controller by the commands it executes, counter(P) by its two modes, refresh(P, x) by its one step. -/
theorem agentsWriteOnlyWhatTheyOwn : Obligations.AgentsWriteOnlyWhatTheyOwn := by
  intro s t
  refine ⟨fun h p x => controllerStep_oc p x h, fun p h => ?_, fun p x h => ?_⟩
  · obtain rfl := Host.Outcome.next.inj h
    exact ⟨counterStep_frame s p, fun i => counterStep_iflg_mono s p⟩
  · obtain rfl := Host.Outcome.next.inj h
    exact ⟨refreshStep_frame s p x, fun i => refreshStep_iflg_ne s p x, refreshStep_iflg_same s p x⟩

end Sys2Proof.Machine

/-! Proofs of the family 30_encoding.md: a word is a command exactly when it is in that command's row of the opcode table. -/

namespace Sys2Proof

/-! ### A row's (match, mask) pair, field by field (30_encoding.md R91, R97) -/

theorem ofWord_inj {v w : Word} : Fields.ofWord v = Fields.ofWord w ↔ v = w :=
  ⟨fun h => by rw [← toWord_ofWord v, h, toWord_ofWord], congrArg _⟩

/-- A masked word is read field by field. -/
theorem ofWord_and (v w : Word) :
    Fields.ofWord (v &&& w) =
      { opc := (Fields.ofWord v).opc &&& (Fields.ofWord w).opc, p := (Fields.ofWord v).p &&& (Fields.ofWord w).p,
        rsv1 := (Fields.ofWord v).rsv1 &&& (Fields.ofWord w).rsv1, sel := (Fields.ofWord v).sel &&& (Fields.ofWord w).sel,
        rsv2 := (Fields.ofWord v).rsv2 &&& (Fields.ofWord w).rsv2,
        imm := (Fields.ofWord v).imm &&& (Fields.ofWord w).imm } := by
  simp [Fields.ofWord, BitVec.extractLsb'_and]

/-- The match of a row holds its opcode and nothing else. -/
theorem ofWord_matchBits (op : Op) : Fields.ofWord op.matchBits = ⟨op.code, 0, 0, 0, 0, 0⟩ := by
  cases op <;> decide

/-- The mask of every row covers the opcode and both reserved fields. -/
theorem ofWord_maskBits_fixed (op : Op) :
    (Fields.ofWord op.maskBits).opc = BitVec.allOnes 4 ∧ (Fields.ofWord op.maskBits).rsv1 = BitVec.allOnes 3 ∧
      (Fields.ofWord op.maskBits).rsv2 = BitVec.allOnes 20 := by
  cases op <;> decide

/-- The fields among P, SEL and IMM that a command does not use are 0 (30_encoding.md R93 to R95). -/
def Op.unusedZero (op : Op) (f : Fields) : Prop :=
  match op with
  | .limit => f.p = 0 ∧ f.sel = 0
  | .bit => f.p = 0 ∧ f.imm = 0
  | .conv | .wr => True
  | .caps => f.p = 0 ∧ f.sel = 0 ∧ f.imm = 0
  | .rd => f.imm = 0
  | .prepare | .start | .stop => f.sel = 0 ∧ f.imm = 0
  | .pulse | .pulseA | .pulseB => f.sel = 0

/-- The unused fields are exactly those of P, SEL and IMM that the row's mask covers. -/
theorem unusedZero_iff_masked (op : Op) (f : Fields) :
    op.unusedZero f ↔ f.p &&& (Fields.ofWord op.maskBits).p = 0 ∧ f.sel &&& (Fields.ofWord op.maskBits).sel = 0 ∧
      f.imm &&& (Fields.ofWord op.maskBits).imm = 0 := by
  have hp : f.p &&& 1#1 = f.p := BitVec.and_allOnes
  have hsel : f.sel &&& 15#4 = f.sel := BitVec.and_allOnes
  have himm : f.imm &&& 4294967295#32 = f.imm := BitVec.and_allOnes
  cases op <;> simp [Op.unusedZero, Fields.ofWord, Op.maskBits, hp, hsel, himm]

/-- A word has a row's (match, mask) pair exactly when it has the row's opcode and its reserved and unused fields are 0. -/
theorem masked_eq_match_iff (op : Op) (w : Word) :
    w &&& op.maskBits = op.matchBits ↔
      (Fields.ofWord w).rsv1 = 0 ∧ (Fields.ofWord w).rsv2 = 0 ∧ (Fields.ofWord w).opc = op.code ∧
        op.unusedZero (Fields.ofWord w) := by
  obtain ⟨hopc, hrsv1, hrsv2⟩ := ofWord_maskBits_fixed op
  rw [← ofWord_inj, ofWord_and, ofWord_matchBits, unusedZero_iff_masked, hopc, hrsv1, hrsv2]
  simp only [BitVec.and_allOnes, Fields.mk.injEq]
  tauto

/-- A word has the (match, mask) pair of at most one row, because the rows' opcodes differ. -/
theorem op_eq_of_masked_eq_match {w : Word} {a b : Op} (ha : w &&& a.maskBits = a.matchBits)
    (hb : w &&& b.maskBits = b.matchBits) : a = b := by
  obtain ⟨-, -, hca, -⟩ := (masked_eq_match_iff a w).mp ha
  obtain ⟨-, -, hcb, -⟩ := (masked_eq_match_iff b w).mp hb
  exact Option.some.inj ((ofCode_inj_iff.mpr hca).symm.trans (ofCode_inj_iff.mpr hcb))

/-! ### The decoder's verdict (30_encoding.md R98) -/

@[simp] theorem need_eq_cmd {ok : Bool} {why : IllegalCause} {k : Verdict} {i : Instr} :
    Verdict.need ok why k = .cmd i ↔ ok = true ∧ k = .cmd i := by
  cases ok <;> simp [Verdict.need]

/-- The decoder answers a command when the reserved fields are 0 and the row of the opcode answers it. -/
theorem decode_eq_cmd_iff {w : Word} {i : Instr} :
    decode w = .cmd i ↔
      (Fields.ofWord w).rsv1 = 0 ∧ (Fields.ofWord w).rsv2 = 0 ∧
        ∃ op, (Fields.ofWord w).opc = op.code ∧ decodeOperands op (Fields.ofWord w) = .cmd i := by
  simp only [decode, decodeFields, need_eq_cmd, ← ofCode_inj_iff, Bool.and_eq_true, beq_iff_eq, and_assoc]
  cases Op.ofCode (Fields.ofWord w).opc <;> simp

/-- The row of a mnemonic answers commands of that mnemonic only. -/
theorem op_of_decodeOperands {op : Op} {f : Fields} {i : Instr} (h : decodeOperands op f = .cmd i) : i.op = op := by
  cases op <;> simp only [decodeOperands, need_eq_cmd, Verdict.cmd.injEq] at h
  case conv =>
    obtain ⟨-, rfl⟩ := h
    rfl
  case caps =>
    obtain ⟨-, -, -, rfl⟩ := h
    rfl
  case wr | rd =>
    split at h
    · cases h
    · simp only [need_eq_cmd, Verdict.cmd.injEq] at h
      obtain ⟨-, -, rfl⟩ := h
      rfl
  all_goals
    obtain ⟨-, -, rfl⟩ := h
    rfl

/-- The row of a mnemonic answers a command exactly when its unused fields are 0 and its further constraints hold. -/
theorem decodeOperands_isCmd_iff (op : Op) (f : Fields) :
    (∃ i, decodeOperands op f = .cmd i) ↔
      op.unusedZero f ∧ op.constraints (Periph.ofBit f.p) f.sel f.imm = true := by
  cases op
  case wr | rd =>
    simp only [decodeOperands, Op.unusedZero, Op.constraints]
    cases Reg.ofIndex f.sel <;> simp [and_comm]
  all_goals simp [decodeOperands, Op.unusedZero, Op.constraints]

/-- R97's iff: a word decodes to a command of a mnemonic exactly when it is in the mnemonic's row. -/
theorem decode_op_iff_rowAccepts (w : Word) (op : Op) :
    (∃ i, decode w = .cmd i ∧ i.op = op) ↔ op.rowAccepts w = true := by
  simp only [Op.rowAccepts, Bool.and_eq_true, beq_iff_eq, masked_eq_match_iff, decode_eq_cmd_iff, and_assoc,
    ← decodeOperands_isCmd_iff]
  constructor
  · rintro ⟨i, hrsv1, hrsv2, ⟨op', hopc, hi⟩, rfl⟩
    obtain rfl := op_of_decodeOperands hi
    exact ⟨hrsv1, hrsv2, hopc, i, hi⟩
  · rintro ⟨hrsv1, hrsv2, hopc, i, hi⟩
    exact ⟨i, hrsv1, hrsv2, ⟨op, hopc, hi⟩, op_of_decodeOperands hi⟩

/-- A word in no row of the table is illegal. -/
theorem decode_illegal_of_no_row {w : Word} (h : ∀ op : Op, op.rowAccepts w = false) :
    ∃ why, decode w = .illegal why := by
  cases hd : decode w with
  | illegal why => exact ⟨why, rfl⟩
  | cmd i => simpa [h i.op] using (decode_op_iff_rowAccepts w i.op).mp ⟨i, hd, rfl⟩

end Sys2Proof

namespace Sys2Proof.Machine

/-! ### The controller on an issued word (10_state.md R26) -/

theorem controllerStep_of_issues {s : State} {w : Word} (h : s.issues w) : s.controllerStep = s.runWord w := by
  obtain ⟨-, huq, hfetch⟩ := h
  simp only [State.controllerStep, huq, hfetch]

theorem runWord_of_illegal (s : State) {w : Word} {why : IllegalCause} (h : decode w = .illegal why) :
    s.runWord w = .next { s with fault := some ⟨.illegalCommand, s.pc, some w, .controller⟩ } := by
  simp only [State.runWord, h, State.raiseFault]

/-- Settles O3: both the decoder and the table read a word as opcode, reserved fields, unused fields and constraints. -/
theorem commandIffRowOfOpcodeTable : Obligations.CommandIffRowOfOpcodeTable := by
  refine ⟨decode_op_iff_rowAccepts, fun w a b hab ⟨ha, hb⟩ => hab (op_eq_of_masked_eq_match ha hb), fun s w hs hno => ?_⟩
  obtain ⟨why, hw⟩ := decode_illegal_of_no_row hno
  rw [controllerStep_of_issues hs, runWord_of_illegal s hw]

end Sys2Proof.Machine

/-! Proofs of the family 40_shared_contract.md: what LIMIT, BIT and CAPS answer, and that the pure commands, CONV among
them, read their operands and the configuration only. -/

namespace Sys2Proof.Machine

/-! ### The clamp of LIMIT (40_shared_contract.md R121, R122) -/

theorem limitNanos_mem (n : Nat) : 1000000 ≤ limitNanos n ∧ limitNanos n ≤ 2000000 := by
  rw [limitNanos_eq]; omega

theorem limitNanos_mono {m n : Nat} (h : m ≤ n) : limitNanos m ≤ limitNanos n := by
  simp only [limitNanos_eq]; omega

theorem limitNanos_eq_self_iff {n : Nat} : limitNanos n = n ↔ 1000000 ≤ n ∧ n ≤ 2000000 := by
  rw [limitNanos_eq]; omega

theorem limitNanos_idem (n : Nat) : limitNanos (limitNanos n) = limitNanos n :=
  limitNanos_eq_self_iff.2 (limitNanos_mem n)

/-- A clamped duration fits the 32 bits of RESP.value. -/
theorem toNat_ofNat_limitNanos (n : Nat) : (BitVec.ofNat 32 (limitNanos n)).toNat = limitNanos n := by
  have h := (limitNanos_mem n).2
  rw [BitVec.toNat_ofNat, Nat.mod_eq_of_lt (by omega)]

/-- The clamp on an operand, with the three cases of R121. -/
theorem ofNat_limitNanos (x : Operand) :
    BitVec.ofNat 32 (limitNanos x.toNat) =
      if x.toNat < 1000000 then 1000000 else if x.toNat > 2000000 then 2000000 else x := by
  unfold limitNanos outMinNanos outMaxNanos
  split
  · rfl
  · split
    · rfl
    · rw [BitVec.ofNat_toNat, BitVec.setWidth_eq]

/-! ### What LIMIT, BIT and CAPS do -/

section
variable (s : State)

theorem exec_limit (nanos : Operand) :
    exec (.limit nanos) s = .next (s.complete ⟨BitVec.ofNat 32 (limitNanos nanos.toNat), statusOk⟩) := rfl

theorem exec_bit (shift : BitVec 4) :
    exec (.bit shift) s = .next (s.complete ⟨BitVec.ofNat 32 (bitMask shift.toNat), statusOk⟩) := rfl

theorem exec_caps : exec .caps s = .next (s.complete ⟨BitVec.ofNat 32 (capsValue s.cfg), statusOk⟩) := rfl

theorem respAfter_limit (nanos : Operand) :
    s.respAfter (.limit nanos) = some ⟨BitVec.ofNat 32 (limitNanos nanos.toNat), statusOk⟩ := rfl

end

/-- The single bit is no higher than bit 15, so the 16-bit truncation of R123 drops nothing. -/
theorem bitMask_eq {n : Nat} (h : n < 16) : bitMask n = 2 ^ n := by
  rw [bitMask, uN, Nat.one_shiftLeft, Nat.mod_eq_of_lt (Nat.pow_lt_pow_right (by decide) h)]

/-- CAPS' two bits as the four values of R124. -/
theorem ofNat_capsValue (c : Config) :
    BitVec.ofNat 32 (capsValue c) = match c.fCpu, c.hasTimerHw with
      | .ref, false => 0
      | .ref, true => 1
      | .alt, false => 2
      | .alt, true => 3 := by
  unfold capsValue
  cases c.fCpu <;> cases c.hasTimerHw <;> rfl

/-- Settles O21: RESP.value is the clamp of the operand, and the clamp has the four laws on naturals. -/
theorem limitLaws : Obligations.LimitLaws := by
  intro s x y
  obtain ⟨hlo, hhi⟩ := limitNanos_mem x.toNat
  refine ⟨_, _, respAfter_limit s x, respAfter_limit s y, ?_⟩
  simp only [respAfter_limit, toNat_ofNat_limitNanos, limitNanos_idem, ← limitNanos_eq_self_iff, true_and, hlo, hhi]
  exact ⟨limitNanos_mono, by rw [← BitVec.toNat_inj, toNat_ofNat_limitNanos]⟩

/-- Settles O20: the clamp on the operand is R121's case distinction. -/
theorem limitClampsDuration : Obligations.LimitClampsDuration := by
  intro nanos s
  rw [exec_limit, ofNat_limitNanos]
  exact ⟨rfl, rfl⟩

/-- Settles O22: the shift is below 16, so the mask is a power of 2. -/
theorem bitIsSingleMask : Obligations.BitIsSingleMask := by
  intro shift s
  rw [exec_bit, bitMask_eq shift.isLt]
  exact ⟨rfl, rfl, Nat.pow_lt_pow_right (by decide) shift.isLt⟩

/-- Settles O23: the value CAPS computes from the two bits is R124's case distinction. -/
theorem capsReportsConfiguration : Obligations.CapsReportsConfiguration := by
  intro s
  rw [exec_caps, ofNat_capsValue]
  exact ⟨rfl, rfl⟩

/-! ### The pure commands read no register (40_shared_contract.md R120) -/

/-- From `s` and from `u` a command completes at `t` and at `v` with the same response and the same count of draws, and
writes nothing else. -/
def CompletesAlike (s t u v : State) : Prop :=
  ∃ (r : Resp) (n : Nat), t = { s with resp := r, pc := s.pc + 1, draws := n } ∧
    v = { u with resp := r, pc := u.pc + 1, draws := n }

theorem legal_pass (s : State) {i : Instr} (h : i.wf = true) (run : State) : s.legal i run = run := by
  simp [State.legal, h]

section
variable {s u : State} (hdraws : s.draws = u.draws)
include hdraws

theorem complete_alike (r : Resp) : CompletesAlike s (s.complete r) u (u.complete r) :=
  ⟨r, s.draws, rfl, by rw [hdraws]; rfl⟩

/-- Out of range both states answer the same draw, since as many were made before it. -/
theorem completeConv_alike (w nanos scaled : Nat) :
    CompletesAlike s (s.completeConv w nanos scaled) u (u.completeConv w nanos scaled) := by
  unfold State.completeConv State.drawn
  split
  · exact complete_alike hdraws _
  · exact ⟨_, s.draws + 1, rfl, by rw [hdraws]; rfl⟩

/-- CONV_T16 reads the order of its scaling from the configuration. -/
theorem conv16_alike (hcfg : s.cfg = u.cfg) (code : BitVec 4) (nanos : Nat) :
    CompletesAlike s (s.conv16 code nanos) u (u.conv16 code nanos) := by
  unfold State.conv16
  rw [hcfg]
  cases freqOfCode code with
  | none => exact complete_alike hdraws _
  | some f => exact completeConv_alike hdraws _ _ _

theorem exec_pure_alike (hcfg : s.cfg = u.cfg) {i : Instr} (hwf : i.wf = true)
    (hi : i.op ∈ [Op.limit, .bit, .conv, .caps]) :
    ∃ t v, exec i s = .next t ∧ exec i u = .next v ∧ CompletesAlike s t u v := by
  cases i with
  | limit nanos => exact ⟨_, _, exec_limit s _, exec_limit u _, complete_alike hdraws _⟩
  | bit shift => exact ⟨_, _, exec_bit s _, exec_bit u _, complete_alike hdraws _⟩
  | caps => exact ⟨_, _, exec_caps s, exec_caps u, hcfg ▸ complete_alike hdraws _⟩
  | conv p code nanos =>
    refine ⟨_, _, rfl, rfl, ?_⟩
    rw [legal_pass s hwf, legal_pass u hwf]
    cases p with
    | t16 => exact conv16_alike hdraws hcfg _ _
    | t8 => exact completeConv_alike hdraws _ _ _
  | wr | rd | prepare | start | pulse | pulseA | pulseB | stop => simp [Instr.op] at hi

end

/-- Settles O24: each pure command completes alike in two states of one configuration and one count of draws. -/
theorem pureCommandsReadNoRegister : Obligations.PureCommandsReadNoRegister := by
  intro i s u hwf hi hcfg hdraws
  obtain ⟨t, v, hs, hu, r, n, rfl, rfl⟩ := exec_pure_alike hdraws hcfg hwf hi
  exact ⟨r, n, hs, hu⟩

end Sys2Proof.Machine

/-! Proofs of the family 41_converter.md: what CONV answers for an unsupported code, in range and out of range, and the laws
of its scaling on the range. -/

namespace Sys2Proof.Machine

/-! ### The code and the range (41_converter.md R141, R144) -/

@[simp] theorem inNanosRange_iff {n : Nat} : inNanosRange n = true ↔ 1000000 ≤ n ∧ n ≤ 2000000 := by
  rw [inNanosRange, Bool.and_eq_true, decide_eq_true_eq, decide_eq_true_eq, outMinNanos, outMaxNanos]

theorem freqOfCode_of_lt_two {code : BitVec 4} :
    code.toNat < 2 → freqOfCode code = some (if code = 0 then .ref else .alt) := by
  revert code; decide

theorem freqOfCode_of_two_le {code : BitVec 4} : 2 ≤ code.toNat → freqOfCode code = none := by
  revert code; decide

/-- CONV on P with this code scales at frequency f. T8 has one code, and the same constants at either frequency. -/
def ConvSelects (p : Periph) (code : BitVec 4) (f : Freq) : Prop :=
  match p with
  | .t16 => freqOfCode code = some f
  | .t8 => code = 0

/-- The scaling CONV applies on P at frequency f (41_converter.md R142, R144). -/
def convScaled (order : ConvOrder) (p : Periph) (f : Freq) (n : Nat) : Nat :=
  match p with
  | .t16 => scale16 order f n
  | .t8 => scale8 n

/-! ### What CONV does (41_converter.md R141, R144, R146) -/

theorem exec_conv_t16 (s : State) (code : BitVec 4) (nanos : Operand) :
    exec (.conv .t16 code nanos) s = .next (s.conv16 code nanos.toNat) := rfl

theorem exec_conv_t8 (s : State) (nanos : Operand) :
    exec (.conv .t8 0 nanos) s = .next (s.conv8 nanos.toNat) := rfl

theorem exec_conv_of_unsupported (s : State) {code : BitVec 4} (h : freqOfCode code = none) (nanos : Operand) :
    exec (.conv .t16 code nanos) s = .next (s.complete ⟨0, statusUnsupportedFreq⟩) := by
  rw [exec_conv_t16, State.conv16, h]

section
variable {p : Periph} {code : BitVec 4} {f : Freq} (hsel : ConvSelects p code f) (s : State) {nanos : Operand}
include hsel

theorem exec_conv_of_selects :
    exec (.conv p code nanos) s =
      .next (s.completeConv p.width nanos.toNat (convScaled s.cfg.convOrder p f nanos.toNat)) := by
  cases p with
  | t16 =>
    have hcode : freqOfCode code = some f := hsel
    rw [exec_conv_t16, State.conv16, hcode]
    rfl
  | t8 =>
    obtain rfl : code = 0 := hsel
    exact exec_conv_t8 s nanos

theorem exec_conv_in_range (hlo : 1000000 ≤ nanos.toNat) (hhi : nanos.toNat ≤ 2000000) :
    exec (.conv p code nanos) s =
      .next (s.complete ⟨BitVec.ofNat 32 (convScaled s.cfg.convOrder p f nanos.toNat), statusOk⟩) := by
  rw [exec_conv_of_selects hsel, State.completeConv, if_pos (inNanosRange_iff.2 ⟨hlo, hhi⟩)]

theorem exec_conv_out_of_range (hout : nanos.toNat < 1000000 ∨ 2000000 < nanos.toNat) :
    exec (.conv p code nanos) s = .next (s.afterDraw.complete ⟨(s.drawn p.width).setWidth 32, statusOk⟩) := by
  have hrange : ¬ inNanosRange nanos.toNat = true := by rw [inNanosRange_iff]; omega
  rw [exec_conv_of_selects hsel, State.completeConv, if_neg hrange]

end

/-! ### The scaling on the range (41_converter.md R147) -/

section
variable (order : ConvOrder) (p : Periph) (f : Freq)

theorem convScaled_outMinNanos : convScaled order p f 1000000 = outMin p f := by
  cases p with
  | t16 => cases order <;> cases f <;> decide
  | t8 => cases f <;> rfl

/-- On T16 the end is exact in either order because OutRange is a multiple of 10. -/
theorem convScaled_outMaxNanos : convScaled order p f 2000000 = outMax p f := by
  cases p with
  | t16 => cases order <;> cases f <;> decide
  | t8 => cases f <;> rfl

/-- No truncation wraps on the range, and what is left is a quotient of a product. -/
theorem convScaled_mono {m n : Nat} (h : m ≤ n) (hn : n ≤ 2000000) :
    convScaled order p f m ≤ convScaled order p f n := by
  cases p with
  | t16 =>
    simp only [convScaled, scale16_eq order f _ (h.trans hn), scale16_eq order f _ hn]
    cases order <;> dsimp only <;> gcongr
  | t8 =>
    simp only [convScaled, scale8_eq _ (h.trans hn), scale8_eq _ hn]
    gcongr

theorem outMin_le_convScaled {n : Nat} (hlo : 1000000 ≤ n) (hhi : n ≤ 2000000) :
    outMin p f ≤ convScaled order p f n :=
  convScaled_outMinNanos order p f ▸ convScaled_mono order p f hlo hhi

theorem convScaled_le_outMax {n : Nat} (hhi : n ≤ 2000000) : convScaled order p f n ≤ outMax p f :=
  convScaled_outMaxNanos order p f ▸ convScaled_mono order p f hhi le_rfl

/-- The scaled value fits the register, and so RESP.value. -/
theorem toNat_ofNat_convScaled {n : Nat} (hhi : n ≤ 2000000) :
    (BitVec.ofNat 32 (convScaled order p f n)).toNat = convScaled order p f n := by
  have hwidth : 2 ^ p.width ≤ 2 ^ 32 := by cases p <;> decide
  have hfits := (convScaled_le_outMax order p f hhi).trans_lt (outMax_lt p f)
  rw [BitVec.toNat_ofNat, Nat.mod_eq_of_lt (hfits.trans_le hwidth)]

end

/-- In range, the value CONV answers is the scaled duration. -/
theorem convValue_in_range {p : Periph} {code : BitVec 4} {f : Freq} (hsel : ConvSelects p code f) (s : State)
    {nanos : Operand} (hlo : 1000000 ≤ nanos.toNat) (hhi : nanos.toNat ≤ 2000000) :
    (s.respAfter (.conv p code nanos)).map (·.value.toNat) =
      some (convScaled s.cfg.convOrder p f nanos.toNat) := by
  rw [State.respAfter, exec_conv_in_range hsel s hlo hhi]
  exact congrArg some (toNat_ofNat_convScaled _ p f hhi)

/-- Settles O29: in range CONV answers the scaled duration, the scaling is monotone and exact at both ends, and LIMIT's
result is in range. -/
theorem convLawsOnRange : Obligations.ConvLawsOnRange := by
  intro p f code s hcode conv
  have hsel : ConvSelects p code f := by
    obtain ⟨rfl, rfl⟩ | ⟨rfl, rfl⟩ := hcode
    · cases f <;> rfl
    · rfl
  have hconv {n : Operand} (hlo : 1000000 ≤ n.toNat) (hhi : n.toNat ≤ 2000000) :
      conv n = some (convScaled s.cfg.convOrder p f n.toNat) := convValue_in_range hsel s hlo hhi
  refine ⟨?_, ?_, fun x y hx hxy hy => ?_, fun x => ?_⟩
  · exact (hconv (by decide) (by decide)).trans (congrArg some (convScaled_outMinNanos _ p f))
  · exact (hconv (by decide) (by decide)).trans (congrArg some (convScaled_outMaxNanos _ p f))
  · exact ⟨_, _, hconv hx (hxy.trans hy), hconv (hx.trans hxy) hy, convScaled_mono _ p f hxy hy,
      outMin_le_convScaled _ p f hx (hxy.trans hy), convScaled_le_outMax _ p f hy⟩
  · obtain ⟨hlo, hhi⟩ := toNat_ofNat_limitNanos x.toNat ▸ limitNanos_mem x.toNat
    exact ⟨_, _, respAfter_limit s x, hconv hlo hhi, outMin_le_convScaled _ p f hlo hhi,
      convScaled_le_outMax _ p f hhi⟩

/-- Settles O25: the code alone decides between the sentinel and a frequency, and then the range decides. -/
theorem convT16SelectsFrequency : Obligations.ConvT16SelectsFrequency := by
  intro code nanos s
  refine ⟨fun hcode => exec_conv_of_unsupported s (freqOfCode_of_two_le hcode) nanos, fun hcode => ?_⟩
  have hsel : ConvSelects .t16 code (if code = 0 then .ref else .alt) := freqOfCode_of_lt_two hcode
  exact ⟨exec_conv_out_of_range hsel s, exec_conv_in_range hsel s⟩

/-- A value truncated to 16 bits is the same 32-bit word as its 16-bit word zero-extended. -/
theorem ofNat_uN_sixteen (v : Nat) : BitVec.ofNat 32 (uN 16 v) = (BitVec.ofNat 16 v).setWidth 32 := by
  apply BitVec.eq_of_toNat_eq
  rw [BitVec.toNat_setWidth, BitVec.toNat_ofNat, BitVec.toNat_ofNat, uN]

/-- Settles O26: the value CONV answers is `scale16`, whose last truncation is that of R142's 16-bit result. -/
theorem convT16ScalesInRange : Obligations.ConvT16ScalesInRange := by
  intro f nanos s hlo hhi code x r q
  have hsel : ConvSelects .t16 code f := by cases f <;> rfl
  have hscaled : convScaled s.cfg.convOrder .t16 f nanos.toNat = uN 16 (outMin .t16 f + q) := rfl
  rw [exec_conv_in_range hsel s hlo hhi, hscaled, ofNat_uN_sixteen]
  rfl

/-- Settles O27: T8's code is 0, and no truncation of `scale8` changes a value on the range. -/
theorem convT8ScalesInRange : Obligations.ConvT8ScalesInRange := by
  intro nanos s
  have hsel : ConvSelects .t8 0 .ref := rfl
  refine ⟨fun hlo hhi => ?_, exec_conv_out_of_range hsel s⟩
  rw [exec_conv_in_range hsel s hlo hhi, convScaled, scale8_eq _ hhi]
  rfl

/-- Settles O28: a supported code selects a frequency, and out of range the frequency no longer matters. -/
theorem convOutOfRangeIsADraw : Obligations.ConvOutOfRangeIsADraw := by
  intro p code nanos s hcode hout
  obtain ⟨f, hsel⟩ : ∃ f, ConvSelects p code f := by
    obtain ⟨rfl, hlt⟩ | ⟨rfl, hzero⟩ := hcode
    · exact ⟨_, freqOfCode_of_lt_two hlt⟩
    · exact ⟨.ref, hzero⟩
  exact exec_conv_out_of_range hsel s hout

end Sys2Proof.Machine

/-! Proofs of the family 42_register_access.md: which writes are hazards, and what RD answers. -/

namespace Sys2Proof.Machine

/-! ### What WR does (42_register_access.md R160, R162) -/

theorem hazard_iff {s : State} {p : Periph} {r : Reg} :
    s.hazard p r = true ↔ (r = .ctrlA ∨ r = .iflg) ∧ (s.timer p).cs ≠ 0 := by
  simp [State.hazard]

section
variable {s : State} {p : Periph} {r : Reg} {v : Operand} (hwf : (Instr.wr p r v).wf = true)
  (hw : s.cfg.hasTimerHw = true)
include hwf hw

theorem exec_wr_of_hazard (h : s.hazard p r = true) :
    exec (.wr p r v) s =
      .next (s.raiseFault .hazardRunningWrite (some (encode (.wr p r v))) .controller) := by
  rw [exec, execWr, checked_pass s hwf hw rfl, if_pos h]

theorem exec_wr_of_no_hazard (h : ¬ s.hazard p r = true) :
    exec (.wr p r v) s = .next ((s.writeReg p r v).complete ⟨0, statusOk⟩) := by
  rw [exec, execWr, checked_pass s hwf hw rfl, if_neg h]

end

/-- Settles O32: the two clauses are the two answers of the hazard check. -/
theorem runningWriteRaisesHazard : Obligations.RunningWriteRaisesHazard := by
  intro p r v s hwf hw
  rw [← hazard_iff]
  refine ⟨exec_wr_of_hazard hwf hw, fun h => ⟨_, exec_wr_of_no_hazard hwf hw h, ?_, ?_⟩⟩
  · rw [complete_fault, writeReg_fault]
  · rw [complete_pc, writeReg_pc]

/-! ### What RD does (42_register_access.md R163, R164) -/

theorem exec_rd {s : State} {p : Periph} {r : Reg} (hp : r.presentOn p = true) (hw : s.cfg.hasTimerHw = true) :
    exec (.rd p r) s = .next (s.complete ⟨s.readReg p r, statusOk⟩) := by
  rw [exec, execRd, checked_pass s (i := .rd p r) hp hw rfl]

/-- Completing a command changes no register. -/
@[simp] theorem complete_readReg (s : State) (resp : Resp) (p : Periph) (r : Reg) :
    (s.complete resp).readReg p r = s.readReg p r := by
  simp only [State.readReg, State.regBits, complete_timer, complete_per]

/-- MAX(P) as a mask covers every bit of a register of P's width. -/
theorem setWidth_and_max {p : Periph} (x : BitVec p.width) :
    x.setWidth 32 &&& BitVec.ofNat 32 p.max = x.setWidth 32 := by
  have hmask : BitVec.ofNat 32 p.max = (BitVec.allOnes p.width).setWidth 32 := by cases p <;> rfl
  rw [hmask, ← BitVec.setWidth_and, BitVec.and_allOnes]

/-- Settles O33: under its mask a register of the peripheral's width reads whole and a control register reads its
non-reserved bits, and completing the first RD changes no register for the second. -/
theorem rdReadsRegister : Obligations.RdReadsRegister := by
  intro p r s hp hw t v
  have hv : v = s.readReg p r := by
    cases r with
    | cnt | cmpA | cmpB => exact (setWidth_and_max _).symm
    | per =>
      cases p with
      | t16 => exact (setWidth_and_max (p := .t16) s.per).symm
      | t8 => cases hp
    | ctrlA | ctrlB | imsk | iflg | dir | clken => exact BitVec.setWidth_and
  have hagain : exec (.rd p r) (s.complete ⟨v, statusOk⟩) =
      .next ((s.complete ⟨v, statusOk⟩).complete ⟨v, statusOk⟩) := by
    rw [exec_rd (s := s.complete _) hp hw, complete_readReg, hv]
  exact ⟨hv ▸ exec_rd hp hw, hagain⟩

end Sys2Proof.Machine

/-! Proofs of the family 43_timer_operations.md: the micro-step sequences, the range of a pulsed value, and what a
composite command keeps and leaves under every interleaving with the counters and the refresh units. -/

namespace Sys2Proof.Machine

/-! ### The sequences and the inversion (43_timer_operations.md R182, R183, R188) -/

/-- Settles O36: the constants of `prep` are those of R182 and R183, OutMax by the frequency. -/
theorem preparationSequences : Obligations.PreparationSequences := by
  intro cfg
  refine ⟨?_, rfl⟩
  unfold prep
  cases cfg.fCpu <;> rfl

theorem toNat_inv {p : Periph} {f : Freq} {v : Nat} (h : v ≤ outMax p f) : (inv p f v).toNat = outMax p f - v := by
  have hmax := outMax_lt p f
  have htoNat {n : Nat} (hn : n ≤ outMax p f) : (BitVec.ofNat p.width n).toNat = n := by
    rw [BitVec.toNat_ofNat, Nat.mod_eq_of_lt (hn.trans_lt hmax)]
  rw [inv, BitVec.toNat_sub_of_le (by rwa [BitVec.le_def, htoNat h, htoNat le_rfl]), htoNat h, htoNat le_rfl]

/-- Settles O45: both values fit the register, so the subtraction is that of the naturals. -/
theorem inversionDoesNotWrap : Obligations.InversionDoesNotWrap := by
  intro p f v h
  have hinv := toNat_inv h
  refine ⟨hinv, hinv ▸ Nat.sub_le _ _, ?_⟩
  cases p <;> cases f <;> rfl

/-! ### The checks of a pulsed value (43_timer_operations.md R181, R189) -/

@[simp] theorem inPulseRange_iff {p : Periph} {f : Freq} {v : Nat} : inPulseRange p f v = true ↔ v ≤ outMax p f :=
  decide_eq_true_iff

section
variable {p : Periph} {f : Freq}

/-- A value up to OutMax fits the operand of a pulse command (30_encoding.md R95). -/
theorem le_max_of_le_outMax {v : Nat} (h : v ≤ outMax p f) : v ≤ p.max :=
  Nat.le_sub_one_of_lt (h.trans_lt (outMax_lt p f))

theorem pulse_wf {a b : BitVec 16} (ha : a.toNat ≤ outMax p f) (hb : b.toNat ≤ outMax p f) :
    (Instr.pulse p a b).wf = true := by
  rw [Instr.wf, decide_eq_true (le_max_of_le_outMax ha), decide_eq_true (le_max_of_le_outMax hb), Bool.and_true]

theorem pulseA_wf {v : Operand} (h : v.toNat ≤ outMax p f) : (Instr.pulseA p v).wf = true :=
  decide_eq_true (le_max_of_le_outMax h)

theorem pulseB_wf {v : Operand} (h : v.toNat ≤ outMax p f) : (Instr.pulseB p v).wf = true :=
  decide_eq_true (le_max_of_le_outMax h)

end

section
variable (s : State) (p : Periph)

theorem exec_pulse (a b : BitVec 16) :
    exec (.pulse p a b) s = .next (s.composite (.pulse p a b) p [a.toNat, b.toNat] (prep s.cfg p ++
      [compareWrite s.cfg p .a a.toNat, compareWrite s.cfg p .b b.toNat, .dirOr p 0x03, clockStart s.cfg p])) := rfl

theorem exec_pulseA (v : Operand) :
    exec (.pulseA p v) s = .next (s.composite (.pulseA p v) p [v.toNat] (prep s.cfg p ++
      [compareWrite s.cfg p .a v.toNat, .dirOr p 0x01, clockStart s.cfg p])) := rfl

theorem exec_pulseB (v : Operand) :
    exec (.pulseB p v) s = .next (s.composite (.pulseB p v) p [v.toNat] (prep s.cfg p ++
      [compareWrite s.cfg p .b v.toNat, .dirOr p 0x02, clockStart s.cfg p])) := rfl

end

section
variable {s : State} {i : Instr} {p : Periph} {vs : List Nat} (hwf : i.wf = true) (hw : s.cfg.hasTimerHw = true)
include hwf hw

theorem composite_refused (hv : ∃ v ∈ vs, outMax p s.cfg.fCpu < v) (steps : List MicroStep) :
    s.composite i p vs steps = s.refuse .pulseRange (encode i) := by
  have hall : vs.all (inPulseRange p s.cfg.fCpu) = false := by simpa [inPulseRange] using hv
  simp [State.composite, State.checked, State.legal, hwf, hw, hall]

/-- An admitted command that prepares the peripheral stops its counter in the step that decodes it. -/
theorem composite_admitted (hv : ∀ v ∈ vs, v ≤ outMax p s.cfg.fCpu) (tail : List MicroStep) :
    s.composite i p vs (prep s.cfg p ++ tail) =
      (s.writeReg p .ctrlB 0).setQueue ((prep s.cfg p).tail ++ tail) :=
  checked_pass s hwf hw (by simpa using hv)

end

/-- Settles O44: with a legal command and the hardware present, the range check alone decides; a refusal writes REFUSED
only, and the first micro-step of an admitted pulse writes neither record. -/
theorem pulseRangeRefusal : Obligations.PulseRangeRefusal := by
  intro p a b v s hw
  refine ⟨fun hwf => ⟨fun hout => ?_, fun ha hb => ?_⟩, fun hwf => ⟨fun hout => ?_, fun hv => ?_⟩⟩
  · rw [exec_pulse, composite_refused hwf hw (by simpa using hout)]
    rfl
  · exact ⟨_, by rw [exec_pulse, composite_admitted hwf hw (by simp [ha, hb])], by simp, by simp⟩
  · have hwfB : (Instr.pulseB p v).wf = true := hwf
    rw [exec_pulseA, exec_pulseB, composite_refused hwf hw (by simpa using hout),
      composite_refused hwfB hw (by simpa using hout)]
    exact ⟨rfl, rfl⟩
  · have hwfB : (Instr.pulseB p v).wf = true := hwf
    rw [exec_pulseA, exec_pulseB, composite_admitted hwf hw (by simpa using hv),
      composite_admitted hwfB hw (by simpa using hv)]
    exact ⟨⟨_, rfl, by simp, by simp⟩, _, rfl, by simp, by simp⟩

/-! ### pc never goes back (10_state.md R25, R26) -/

section
variable {s t : State}

theorem runMicro_pc_le (w : Option Word) (ms : List MicroStep) : s.pc ≤ (s.runMicro w ms).pc := by
  cases ms with
  | nil => exact le_rfl
  | cons m rest => obtain ⟨-, h⟩ | ⟨-, -, h⟩ | ⟨-, -, h⟩ := runMicro_cases s w m rest <;> simp [h]

theorem checked_pc_le (i : Instr) (p : Periph) (vs : List Nat) {run : State} (hrun : s.pc ≤ run.pc) :
    s.pc ≤ (s.checked i p vs run).pc := by
  obtain h | h | h | ⟨-, h⟩ := checked_cases s i p vs run <;> simp [h, hrun]

theorem composite_pc_le (i : Instr) (p : Periph) (vs : List Nat) (steps : List MicroStep) :
    s.pc ≤ (s.composite i p vs steps).pc :=
  checked_pc_le i p vs (runMicro_pc_le _ steps)

@[simp] theorem completeConv_pc (w nanos scaled : Nat) : (s.completeConv w nanos scaled).pc = s.pc + 1 := by
  unfold State.completeConv; split <;> rfl

@[simp] theorem conv16_pc (code : BitVec 4) (nanos : Nat) : (s.conv16 code nanos).pc = s.pc + 1 := by
  unfold State.conv16; split <;> simp

@[simp] theorem conv8_pc (nanos : Nat) : (s.conv8 nanos).pc = s.pc + 1 := completeConv_pc _ _ _

theorem execConv_pc_le {p : Periph} {code : BitVec 4} {nanos : Operand} (h : execConv p code nanos s = .next t) :
    s.pc ≤ t.pc := by
  obtain rfl := Host.Outcome.next.inj h
  unfold State.legal
  split
  · exact le_rfl
  · cases p <;> simp

theorem exec_pc_le {i : Instr} (h : exec i s = .next t) : s.pc ≤ t.pc := by
  cases i with
  | conv p code nanos => exact execConv_pc_le h
  | wr p r v =>
    obtain rfl := Host.Outcome.next.inj h
    refine checked_pc_le _ p [] ?_
    split <;> simp
  | limit | bit | caps => obtain rfl := Host.Outcome.next.inj h; simp
  | rd p r => obtain rfl := Host.Outcome.next.inj h; exact checked_pc_le _ p [] (by simp)
  | prepare | start | pulse | pulseA | pulseB | stop =>
    obtain rfl := Host.Outcome.next.inj h
    exact composite_pc_le _ _ _ _

theorem controllerStep_pc_le (h : s.controllerStep = .next t) : s.pc ≤ t.pc := by
  unfold State.controllerStep at h
  split at h
  · obtain rfl := Host.Outcome.next.inj h
    exact runMicro_pc_le _ _
  · split at h
    · unfold State.runWord at h
      split at h
      · exact exec_pc_le h
      · obtain rfl := Host.Outcome.next.inj h
        exact le_rfl
    · cases h

/-- The counters and the refresh units leave the controller's fields and the configuration. -/
theorem agentStep_of_ne_controller {a : Agent} (ha : a ≠ .controller) (h : s.agentStep a = .next t) :
    t.uq = s.uq ∧ t.pc = s.pc ∧ t.cfg = s.cfg := by
  cases a with
  | controller => exact absurd rfl ha
  | counter q => obtain rfl := Host.Outcome.next.inj h; simp
  | refresh q x => obtain rfl := Host.Outcome.next.inj h; simp

theorem take_pc_le {a : Agent} (h : s.take a = some t) : s.pc ≤ t.pc := by
  obtain ⟨-, h⟩ := (take_eq_some s).1 h
  by_cases ha : a = .controller
  · subst ha
    exact controllerStep_pc_le h
  · exact (agentStep_of_ne_controller ha h).2.1.ge

theorem after_cons_eq_some {a : Agent} {as : List Agent} :
    s.after (a :: as) = some t ↔ ∃ u, s.take a = some u ∧ u.after as = some t := by
  rw [after_cons, Option.bind_eq_some_iff]

theorem after_pc_le {as : List Agent} (h : s.after as = some t) : s.pc ≤ t.pc := by
  induction as generalizing s with
  | nil => obtain rfl := Option.some.inj h; exact le_rfl
  | cons a as ih =>
    obtain ⟨u, hu, h⟩ := after_cons_eq_some.1 h
    exact (take_pc_le hu).trans (ih h)

end

/-! ### Proof outlines of a composite command (43_timer_operations.md R180)

`I q t` is what is known of the state `t` in which the micro-steps `q` are pending. -/

/-- The other agents keep what is known, and with it no pending micro-step meets a hazard and each leads to what is
known of the rest. -/
structure Outline (I : List MicroStep → State → Prop) : Prop where
  other {q : List MicroStep} {s t : State} {a : Agent} :
    I q s → a ≠ .controller → s.enabled a = true → s.agentStep a = .next t → I q t
  no_hazard {m : MicroStep} {rest : List MicroStep} {s : State} : I (m :: rest) s → m.hazard s = false
  micro {m : MicroStep} {rest : List MicroStep} {s : State} :
    I (m :: rest) s → rest ≠ [] → I rest ((m.effect s).setQueue rest)

section
variable {I : List MicroStep → State → Prop} (hI : Outline I) {s t : State} (hs : I s.uq s) (hq : s.uq ≠ [])
include hI hs hq

/-- A step of any agent keeps the command executing, or is the controller's last micro-step, which completes it. -/
theorem Outline.take_cases {a : Agent} (h : s.take a = some t) :
    (t.pc = s.pc ∧ t.uq ≠ [] ∧ I t.uq t) ∨
      ∃ m, s.uq = [m] ∧ t = ((m.effect s).setQueue []).complete ⟨0, statusOk⟩ := by
  obtain ⟨he, h⟩ := (take_eq_some s).1 h
  by_cases ha : a = .controller
  · subst ha
    obtain ⟨m, rest, huq⟩ := List.exists_cons_of_ne_nil hq
    rw [huq] at hs
    have ht : s.runMicro s.fetch (m :: rest) = t := by
      simpa [State.agentStep, State.controllerStep, huq] using h
    obtain ⟨hm, -⟩ | ⟨-, hrest, hr⟩ | ⟨-, hrest, hr⟩ := runMicro_cases s s.fetch m rest
    · simp [hI.no_hazard hs] at hm
    · left
      rw [← ht, hr]
      exact ⟨by simp, by simpa using hrest, by simpa using hI.micro hs hrest⟩
    · right
      exact ⟨m, by rw [huq, hrest], by rw [← ht, hr]⟩
  · obtain ⟨huq, hpc, -⟩ := agentStep_of_ne_controller ha h
    rw [huq]
    exact .inl ⟨hpc, hq, hI.other hs ha he h⟩

/-- While pc has not moved the command is executing, and what the outline says is known. -/
theorem Outline.after {as : List Agent} (h : s.after as = some t) (hpc : t.pc = s.pc) : t.uq ≠ [] ∧ I t.uq t := by
  induction as generalizing s with
  | nil => obtain rfl := Option.some.inj h; exact ⟨hq, hs⟩
  | cons a as ih =>
    obtain ⟨u, hu, h⟩ := after_cons_eq_some.1 h
    obtain ⟨hupc, huq, hIu⟩ | ⟨m, -, rfl⟩ := hI.take_cases hs hq hu
    · exact ih hIu huq h (hpc.trans hupc.symm)
    · have := after_pc_le h
      simp [hpc] at this

/-- At the first state whose pc has moved, the last micro-step has just completed the command. -/
theorem Outline.completes {as : List Agent} (h : s.after as = some t) (hpc : t.pc ≠ s.pc)
    (hfirst : ∀ as' u, as' <+: as → as' ≠ as → s.after as' = some u → u.pc = s.pc) :
    ∃ m u, I [m] u ∧ u.pc = s.pc ∧ t = ((m.effect u).setQueue []).complete ⟨0, statusOk⟩ := by
  induction as using List.reverseRecOn with
  | nil => obtain rfl := Option.some.inj h; exact absurd rfl hpc
  | append_singleton bs a _ =>
    rw [after_append, Option.bind_eq_some_iff] at h
    obtain ⟨u, hu, h⟩ := h
    obtain ⟨v, hv, h⟩ := after_cons_eq_some.1 h
    obtain rfl := Option.some.inj h
    have hupc := hfirst bs u ⟨[a], rfl⟩ (by simp) hu
    obtain ⟨huq, hIu⟩ := hI.after hs hq hu hupc
    obtain ⟨hvpc, -, -⟩ | ⟨m, hm, rfl⟩ := hI.take_cases hIu huq hv
    · exact absurd (hvpc.trans hupc) hpc
    · exact ⟨m, u, hm ▸ hIu, hupc, rfl⟩

end

/-! ### The counter of P stays stopped until the last micro-step (43_timer_operations.md R196) -/

/-- The peripheral a micro-step writes. -/
def MicroStep.periph : MicroStep → Periph
  | .w p _ _ => p
  | .dirOr p _ => p

/-- Whether a micro-step can start a stopped counter: it writes a clock-select code other than 0. -/
def MicroStep.startsClock : MicroStep → Bool
  | .w _ r v => r == .ctrlB && v != 0
  | .dirOr _ _ => false

section
variable (p : Periph) (r : Reg) (v : Operand) (b : Byte)

@[simp] theorem w_periph : (MicroStep.w p r v).periph = p := rfl
@[simp] theorem dirOr_periph : (MicroStep.dirOr p b).periph = p := rfl
@[simp] theorem w_startsClock : (MicroStep.w p r v).startsClock = (r == .ctrlB && v != 0) := rfl
@[simp] theorem dirOr_startsClock : (MicroStep.dirOr p b).startsClock = false := rfl

end

@[simp] theorem clockStart_periph (cfg : Config) (p : Periph) : (clockStart cfg p).periph = p := rfl

@[simp] theorem compareWrite_periph (cfg : Config) (p : Periph) (x : Channel) (v : Nat) :
    (compareWrite cfg p x v).periph = p := rfl

@[simp] theorem compareWrite_startsClock (cfg : Config) (p : Periph) (x : Channel) (v : Nat) :
    (compareWrite cfg p x v).startsClock = false := by
  cases x <;> rfl

/-- The micro-steps are P's, and only the last of them can start its counter. -/
def ClockLast (p : Periph) (q : List MicroStep) : Prop :=
  (∀ m ∈ q, m.periph = p) ∧ ∀ m ∈ q.dropLast, m.startsClock = false

theorem ClockLast.tail {p : Periph} {m : MicroStep} {rest : List MicroStep} (h : ClockLast p (m :: rest)) :
    ClockLast p rest := by
  refine ⟨fun n hn => h.1 n (List.mem_cons_of_mem m hn), fun n hn => h.2 n ?_⟩
  rw [List.dropLast_cons_of_ne_nil (by rintro rfl; cases hn)]
  exact List.mem_cons_of_mem m hn

theorem ClockLast.startsClock_head {p : Periph} {m : MicroStep} {rest : List MicroStep} (h : ClockLast p (m :: rest))
    (hrest : rest ≠ []) : m.startsClock = false :=
  h.2 m (by simp [List.dropLast_cons_of_ne_nil hrest])

theorem writeReg_cs (s : State) (p q : Periph) {r : Reg} (v : Operand) (h : r ≠ .ctrlB) :
    ((s.writeReg p r v).timer q).cs = (s.timer q).cs := by
  cases r with
  | ctrlB => exact absurd rfl h
  | _ => cases p <;> cases q <;> rfl

theorem writeReg_ctrlB_zero_cs (s : State) (p : Periph) : ((s.writeReg p .ctrlB 0).timer p).cs = 0 := by
  cases p <;> rfl

theorem effect_cs_zero {s : State} {m : MicroStep} (h : (s.timer m.periph).cs = 0) (hm : m.startsClock = false) :
    ((m.effect s).timer m.periph).cs = 0 := by
  cases m with
  | dirOr p v => exact (writeReg_cs s p p _ (by simp)).trans h
  | w p r v =>
    by_cases hr : r = .ctrlB
    · subst hr
      obtain rfl : v = 0 := by simpa using hm
      exact writeReg_ctrlB_zero_cs s p
    · exact (writeReg_cs s p p v hr).trans h

/-- No micro-step meets a hazard while its counter is stopped. -/
theorem no_hazard_of_cs_zero {s : State} {m : MicroStep} (h : (s.timer m.periph).cs = 0) : m.hazard s = false := by
  cases m with
  | dirOr p v => rfl
  | w p r v => simpa [MicroStep.hazard, State.hazard] using fun _ => h

/-- An enabled step of another agent, while the counter of P is stopped: a refresh of P, or no step of P at all. -/
theorem agentStep_of_cs_zero {s t : State} {p : Periph} {a : Agent} (hcs : (s.timer p).cs = 0) (ha : a ≠ .controller)
    (he : s.enabled a = true) (h : s.agentStep a = .next t) :
    (∃ x, a = .refresh p x ∧ t = s.refreshStep p x) ∨ (t.timer p = s.timer p ∧ t.top p = s.top p) := by
  cases a with
  | controller => exact absurd rfl ha
  | counter q =>
    obtain rfl := Host.Outcome.next.inj h
    have hpq : p ≠ q := by rintro rfl; simp [State.enabled, hcs] at he
    exact .inr ⟨counterStep_timer_ne s q p hpq, by simp⟩
  | refresh q x =>
    obtain rfl := Host.Outcome.next.inj h
    by_cases hpq : p = q
    · subst hpq
      exact .inl ⟨x, rfl, rfl⟩
    · exact .inr ⟨refreshStep_timer_ne s q p x hpq, by simp⟩

/-- The counter of P is stopped, and only the last pending micro-step can start it. -/
def StoppedUntilLast (p : Periph) (q : List MicroStep) (s : State) : Prop := (s.timer p).cs = 0 ∧ ClockLast p q

theorem refreshStep_cs (s : State) (p : Periph) (x : Channel) : ((s.refreshStep p x).timer p).cs = (s.timer p).cs := by
  simp [Timer.cs]

theorem outline_stoppedUntilLast (p : Periph) : Outline (StoppedUntilLast p) where
  other := by
    rintro q s t a ⟨hcs, hq⟩ ha he h
    refine ⟨?_, hq⟩
    obtain ⟨x, -, rfl⟩ | ⟨ht, -⟩ := agentStep_of_cs_zero hcs ha he h
    · rw [refreshStep_cs, hcs]
    · rw [ht, hcs]
  no_hazard := by
    rintro m rest s ⟨hcs, hq⟩
    obtain rfl : m.periph = p := hq.1 m (by simp)
    exact no_hazard_of_cs_zero hcs
  micro := by
    rintro m rest s ⟨hcs, hq⟩ hrest
    obtain rfl : m.periph = p := hq.1 m (by simp)
    refine ⟨?_, hq.tail⟩
    rw [setQueue_timer]
    exact effect_cs_zero hcs (hq.startsClock_head hrest)

theorem runMicro_clockStart_pc (s : State) (w : Option Word) (p : Periph) :
    (s.runMicro w [clockStart s.cfg p]).pc = s.pc + 1 := by
  have hrun : s.runMicro w [clockStart s.cfg p] =
      (((clockStart s.cfg p).effect s).setQueue []).complete ⟨0, statusOk⟩ := rfl
  rw [hrun, complete_pc, setQueue_pc, effect_pc]

/-- The micro-steps of every composite command: START's one, or a list that begins by stopping the counter of P. -/
theorem exec_composite {i : Instr} (s : State)
    (hi : i.op ∈ [Op.prepare, .start, .pulse, .pulseA, .pulseB, .stop]) :
    ∃ p vs steps, exec i s = .next (s.composite i p vs steps) ∧
      (steps = [clockStart s.cfg p] ∨
        ∃ m rest, steps = .w p .ctrlB 0 :: m :: rest ∧ ClockLast p (m :: rest)) := by
  cases i with
  | start p => exact ⟨p, _, _, rfl, .inl rfl⟩
  | prepare p | pulse p | pulseA p | pulseB p | stop p =>
    refine ⟨p, _, _, rfl, .inr ⟨_, _, rfl, ?_⟩⟩
    cases p <;> simp [ClockLast]
  | limit | bit | conv | caps | wr | rd => simp [Instr.op] at hi

/-- Everything the step that decodes a composite command can do: raise a fault other than the hazard, refuse, complete
START, or leave the other micro-steps to run with the counter of P stopped. -/
theorem exec_composite_cases {i : Instr} {s t : State}
    (hi : i.op ∈ [Op.prepare, .start, .pulse, .pulseA, .pulseB, .stop]) (h : exec i s = .next t) :
    (∃ c, c ≠ .hazardRunningWrite ∧ t = s.raiseFault c (some (encode i)) .controller) ∨
    t = s.refuse .pulseRange (encode i) ∨
    t.pc = s.pc + 1 ∨
    (t.pc = s.pc ∧ t.uq ≠ [] ∧ t.fault = s.fault ∧ ∃ p, StoppedUntilLast p t.uq t) := by
  obtain ⟨p, vs, steps, hexec, hsteps⟩ := exec_composite s hi
  obtain rfl := Host.Outcome.next.inj (hexec.symm.trans h)
  obtain hc | hc | hc | ⟨-, hc⟩ := checked_cases s i p vs (s.runMicro (some (encode i)) steps)
  · exact .inl ⟨_, by simp, hc⟩
  · exact .inl ⟨_, by simp, hc⟩
  · exact .inr (.inl hc)
  · rw [State.composite, hc]
    obtain rfl | ⟨m, rest, rfl, hlast⟩ := hsteps
    · exact .inr (.inr (.inl (runMicro_clockStart_pc s _ p)))
    · have hrun : s.runMicro (some (encode i)) (.w p .ctrlB 0 :: m :: rest) =
          (s.writeReg p .ctrlB 0).setQueue (m :: rest) := rfl
      rw [hrun]
      refine .inr (.inr (.inr ⟨by simp, by simp, by simp, p, ?_, hlast⟩))
      rw [setQueue_timer, writeReg_ctrlB_zero_cs]

/-- A halted state is the only one an interleaving leads to from it. -/
theorem eq_of_after_halted {s t : State} {as : List Agent} (hs : s.halted = true) (h : s.after as = some t) :
    t = s := by
  cases as with
  | nil => exact (Option.some.inj h).symm
  | cons a as =>
    obtain ⟨u, hu, -⟩ := after_cons_eq_some.1 h
    simp [take_halted s hs] at hu

/-- Any fault recorded is another than the hazard. -/
def State.NoHazardFault (s : State) : Prop := ∀ r, s.fault = some r → r.code ≠ .hazardRunningWrite

theorem noHazardFault_of_fault_eq {s t : State} (h : s.NoHazardFault) (ht : t.fault = s.fault) : t.NoHazardFault :=
  fun r hr => h r (ht ▸ hr)

/-- No other agent raises the hazard: a tick raises UNMODELLED_MODE at most (44_counter_waveform.md R211). -/
theorem noHazardFault_agentStep {s t : State} {a : Agent} (hs : s.NoHazardFault) (ha : a ≠ .controller)
    (h : s.agentStep a = .next t) : t.NoHazardFault := by
  cases a with
  | controller => exact absurd rfl ha
  | refresh q x =>
    obtain rfl := Host.Outcome.next.inj h
    exact noHazardFault_of_fault_eq hs (refreshStep_fault s q x)
  | counter q =>
    obtain rfl := Host.Outcome.next.inj h
    cases hm : s.modelledMode q with
    | true => exact noHazardFault_of_fault_eq hs (by rw [counterStep_ticks s q hm, setTimer_fault])
    | false => rw [counterStep_faults s q hm]; simp [State.NoHazardFault]

theorem outline_noHazardFault (p : Periph) : Outline fun q s => StoppedUntilLast p q s ∧ s.NoHazardFault where
  other h ha he hstep :=
    ⟨(outline_stoppedUntilLast p).other h.1 ha he hstep, noHazardFault_agentStep h.2 ha hstep⟩
  no_hazard h := (outline_stoppedUntilLast p).no_hazard h.1
  micro h hrest := ⟨(outline_stoppedUntilLast p).micro h.1 hrest, noHazardFault_of_fault_eq h.2 (by simp)⟩

/-- Settles O49: a check that fails halts the machine with another record; otherwise, as long as the command executes,
the counter of its peripheral is stopped, and the other agents do not raise the hazard. -/
theorem compositesNeverRaiseHazard : Obligations.CompositesNeverRaiseHazard := by
  rintro i s s1 t as hi ⟨hfault, -⟩ huq hexec hafter hpc
  obtain ⟨c, hc, rfl⟩ | rfl | h | ⟨hpc1, huq1, hfault1, p, hs1⟩ := exec_composite_cases hi hexec
  · obtain rfl := eq_of_after_halted rfl hafter
    simp [huq, hc]
  · obtain rfl := eq_of_after_halted (by simp [State.halted]) hafter
    simp [huq, hfault]
  · have := after_pc_le hafter
    omega
  · have hsafe1 : s1.NoHazardFault := by simp [State.NoHazardFault, hfault1, hfault]
    obtain ⟨-, ⟨hcs, hq⟩, hsafe⟩ :=
      (outline_noHazardFault p).after ⟨hs1, hsafe1⟩ huq1 hafter (hpc.trans hpc1.symm)
    refine ⟨hsafe, fun p' r v rest ht _ => ?_⟩
    obtain rfl : p' = p := hq.1 (.w p' r v) (by simp [ht])
    exact hcs

/-! ### Micro-steps executed with nothing interleaved -/

/-- The effects of some micro-steps, one after the other. -/
def effects (ms : List MicroStep) (s : State) : State := ms.foldl (fun u m => m.effect u) s

@[simp] theorem effects_nil (s : State) : effects [] s = s := rfl

@[simp] theorem effects_cons (m : MicroStep) (ms : List MicroStep) (s : State) :
    effects (m :: ms) s = effects ms (m.effect s) := rfl

theorem effects_append (ms ns : List MicroStep) (s : State) : effects (ms ++ ns) s = effects ns (effects ms s) :=
  List.foldl_append

@[simp] theorem effects_cfg (ms : List MicroStep) (s : State) : (effects ms s).cfg = s.cfg := by
  induction ms generalizing s with
  | nil => rfl
  | cons m ms ih => rw [effects_cons, ih, effect_cfg]

/-- The state of peripheral P is its registers, latches and TOP. -/
theorem samePeriph_iff {s t : State} {p : Periph} : s.samePeriph t p ↔ s.timer p = t.timer p ∧ s.top p = t.top p := by
  cases p <;> simp [State.samePeriph, State.timer, State.top]

/-- A write of P's register reads nothing beyond P. -/
theorem writeReg_samePeriph {s t : State} {p : Periph} (h : s.samePeriph t p) (r : Reg) (v : Operand) :
    (s.writeReg p r v).samePeriph (t.writeReg p r v) p := by
  cases p <;> cases r <;> simp_all [State.samePeriph, State.writeReg, State.timer, State.setTimer]

theorem effect_samePeriph {s t : State} {m : MicroStep} (h : s.samePeriph t m.periph) :
    (m.effect s).samePeriph (m.effect t) m.periph := by
  cases m with
  | w p r v => exact writeReg_samePeriph h r v
  | dirOr p b =>
    have htimer : s.timer p = t.timer p := (samePeriph_iff.1 h).1
    rw [MicroStep.effect, MicroStep.effect, htimer]
    exact writeReg_samePeriph h .dir _

/-- REFRESH_VALUE is a function of the configuration and TOP (60_exceptions.md R253). -/
theorem refreshValue_congr {s t : State} {p : Periph} (hcfg : s.cfg = t.cfg) (htop : s.top p = t.top p) :
    s.refreshValue p = t.refreshValue p := by
  rw [State.refreshValue, State.refreshValue, hcfg, htop]

theorem refreshStep_samePeriph {s t : State} {p : Periph} (h : s.samePeriph t p) (hcfg : s.cfg = t.cfg) (x : Channel) :
    (s.refreshStep p x).samePeriph (t.refreshStep p x) p := by
  obtain ⟨htimer, htop⟩ := samePeriph_iff.1 h
  have hvalue := refreshValue_congr hcfg htop
  exact samePeriph_iff.2 ⟨by rw [refreshStep_timer, refreshStep_timer, htimer, hvalue], by simp [htop]⟩

/-! ### A refresh during a pulse command (43_timer_operations.md R194) -/

/-- The micro-steps of a preparation before the interrupts are disabled: they stop the counter and reset it. -/
def prepStop (p : Periph) : List MicroStep := [.w p .ctrlB 0x00, .w p .cnt (BitVec.ofNat 32 p.max), .w p .clken 0x01]

/-- The micro-steps of a preparation once the flags are cleared. -/
def prepSetUp (cfg : Config) (p : Periph) : List MicroStep := (prep cfg p).drop 5

theorem prep_eq (cfg : Config) (p : Periph) :
    prep cfg p = prepStop p ++ .w p .imsk 0x00 :: .w p .iflg 0x03 :: prepSetUp cfg p := rfl

/-- No register a refresh reads or writes is among those that stop and reset the counter. -/
theorem refreshStep_effect_comm (s : State) {p : Periph} (x : Channel) {m : MicroStep} (hm : m ∈ prepStop p) :
    (m.effect s).refreshStep p x = m.effect (s.refreshStep p x) := by
  simp only [prepStop, List.mem_cons, List.not_mem_nil, or_false] at hm
  obtain rfl | rfl | rfl := hm <;> cases p <;> cases x <;> rfl

theorem refreshStep_effects_comm (s : State) {p : Periph} (x : Channel) {ms : List MicroStep}
    (hms : ∀ m ∈ ms, m ∈ prepStop p) : (effects ms s).refreshStep p x = effects ms (s.refreshStep p x) := by
  induction ms generalizing s with
  | nil => rfl
  | cons m ms ih =>
    rw [effects_cons, effects_cons, ih _ fun n hn => hms n (List.mem_cons_of_mem m hn),
      refreshStep_effect_comm s x (hms m List.mem_cons_self)]

theorem pending_of_imsk_zero {w : Nat} {t : Timer w} (h : t.imsk = 0) (x : Channel) : t.pending x = false := by
  simp [Timer.pending, Timer.ie, h]

theorem pending_of_iflg_zero {w : Nat} {t : Timer w} (h : t.iflg = 0) (x : Channel) : t.pending x = false := by
  simp [Timer.pending, Timer.ifl, h]

theorem writeReg_imsk_zero (s : State) (p : Periph) : ((s.writeReg p .imsk 0).timer p).imsk = 0 := by
  cases p <;> rfl

theorem writeReg_iflg_ne (s : State) (p q : Periph) {r : Reg} (v : Operand) (h : r ≠ .iflg) :
    ((s.writeReg p r v).timer q).iflg = (s.timer q).iflg := by
  cases r with
  | iflg => exact absurd rfl h
  | _ => cases p <;> cases q <;> rfl

theorem writeReg_iflg_same (s : State) (p : Periph) (v : Operand) :
    ((s.writeReg p .iflg v).timer p).iflg = clearFlags (s.timer p).iflg ((v &&& 0x03).setWidth 8) := by
  cases p <;> rfl

/-- Writing 1 to both flags clears them. -/
@[simp] theorem clearFlags_both (iflg : Byte) : clearFlags iflg 3#8 = 0#8 := by
  rw [clearFlags, BitVec.and_assoc]
  exact BitVec.and_zero

theorem writeReg_iflg_clear (s : State) (p : Periph) : ((s.writeReg p .iflg 0x03).timer p).iflg = 0 :=
  (writeReg_iflg_same s p _).trans (clearFlags_both _)

/-- No write sets a flag. -/
theorem writeReg_iflg_zero {s : State} {q : Periph} (p : Periph) (r : Reg) (v : Operand)
    (h : (s.timer q).iflg = 0) : ((s.writeReg p r v).timer q).iflg = 0 := by
  by_cases hr : r = .iflg
  · subst hr
    by_cases hqp : q = p
    · subst hqp
      simp [writeReg_iflg_same, clearFlags, h]
    · rw [writeReg_timer_ne s p .iflg v q hqp, h]
  · rw [writeReg_iflg_ne s p q v hr, h]

theorem effects_iflg_zero {s : State} {p : Periph} (ms : List MicroStep) (h : (s.timer p).iflg = 0) :
    ((effects ms s).timer p).iflg = 0 := by
  induction ms generalizing s with
  | nil => exact h
  | cons m ms ih =>
    refine ih ?_
    cases m <;> exact writeReg_iflg_zero _ _ _ h

/-- Wherever a preparation stands, a refresh can as well come before its first micro-step, or it is not enabled: the
interrupts are disabled first, and when they are enabled again the flags are clear and stay so. -/
theorem refresh_comes_first_or_not_pending {cfg : Config} {p : Periph} {done q tail : List MicroStep}
    (h : done ++ q = prep cfg p ++ tail) (s : State) (x : Channel) :
    (effects done s).refreshStep p x = effects done (s.refreshStep p x) ∨
      ((effects done s).timer p).pending x = false := by
  rw [prep_eq, List.append_assoc, List.append_eq_append_iff] at h
  obtain ⟨rest, hdone, -⟩ | ⟨rest, rfl, hrest⟩ := h
  · exact .inl (refreshStep_effects_comm s x fun m hm => by rw [hdone]; exact List.mem_append_left _ hm)
  · rw [effects_append]
    match rest with
    | [] => exact .inl (refreshStep_effects_comm s x fun m hm => hm)
    | [m] =>
      obtain ⟨rfl, -⟩ := by simpa using hrest
      exact .inr (pending_of_imsk_zero (writeReg_imsk_zero _ p) x)
    | m :: n :: more =>
      obtain ⟨-, rfl, -⟩ := by simpa using hrest
      exact .inr (pending_of_iflg_zero (effects_iflg_zero more (writeReg_iflg_clear _ p)) x)

/-- A state some refreshes of P lead to. -/
def RefreshedFrom (p : Periph) : State → State → Prop :=
  Relation.ReflTransGen fun s t => ∃ x, t = s.refreshStep p x

/-- The state of P is as if the refreshes since the state `s` had all come before the micro-steps already executed. -/
def AsIfRefreshedFirst (p : Periph) (s : State) (steps q : List MicroStep) (t : State) : Prop :=
  StoppedUntilLast p q t ∧ t.cfg = s.cfg ∧
    ∃ done b, done ++ q = steps ∧ RefreshedFrom p s b ∧ t.samePeriph (effects done b) p

section
variable (s : State) (p : Periph) {x y : Channel}

theorem refreshStep_oc : ((s.refreshStep p x).timer p).oc y = (s.timer p).oc y := by
  rw [refreshStep_timer]
  cases y <;> cases x <;> rfl

theorem refreshStep_cmp_same : ((s.refreshStep p x).timer p).cmp x = s.refreshValue p := by
  rw [refreshStep_timer]
  cases x <;> rfl

theorem refreshStep_cmp_ne (h : y ≠ x) : ((s.refreshStep p x).timer p).cmp y = (s.timer p).cmp y := by
  rw [refreshStep_timer, ← setCmp_cmp_ne (s.timer p) x (s.refreshValue p) y h]
  cases y <;> rfl

end

/-- Refreshes write compare registers and flags only, and a compare register takes REFRESH_VALUE. -/
theorem refreshedFrom_spec {p : Periph} {s b : State} (h : RefreshedFrom p s b) :
    b.cfg = s.cfg ∧ b.top p = s.top p ∧ (b.timer p).dir = (s.timer p).dir ∧
      (∀ x, (b.timer p).oc x = (s.timer p).oc x) ∧
      ∀ x, (b.timer p).cmp x = (s.timer p).cmp x ∨ (b.timer p).cmp x = s.refreshValue p := by
  induction h with
  | refl => exact ⟨rfl, rfl, rfl, fun _ => rfl, fun _ => .inl rfl⟩
  | @tail b c _ hbc ih =>
    obtain ⟨y, rfl⟩ := hbc
    obtain ⟨hcfg, htop, hdir, hoc, hcmp⟩ := ih
    refine ⟨by simpa using hcfg, by simpa using htop, by simpa using hdir, fun x => ?_, fun x => ?_⟩
    · rw [refreshStep_oc, hoc]
    · by_cases hxy : x = y
      · subst hxy
        exact .inr ((refreshStep_cmp_same b p).trans (refreshValue_congr hcfg htop))
      · rw [refreshStep_cmp_ne b p hxy]
        exact hcmp x

theorem outline_asIfRefreshedFirst (p : Periph) (s : State) (tail : List MicroStep) :
    Outline (AsIfRefreshedFirst p s (prep s.cfg p ++ tail)) where
  other := by
    rintro q t t' a ⟨hstop, hcfg, done, b, hdone, hb, hsame⟩ ha he h
    refine ⟨(outline_stoppedUntilLast p).other hstop ha he h, (agentStep_of_ne_controller ha h).2.2.trans hcfg, ?_⟩
    obtain ⟨htimer, htop⟩ := samePeriph_iff.1 hsame
    obtain ⟨x, rfl, rfl⟩ | ⟨ht, htt⟩ := agentStep_of_cs_zero hstop.1 ha he h
    · obtain hcomm | hnot := refresh_comes_first_or_not_pending hdone b x
      · have hb' : RefreshedFrom p s (b.refreshStep p x) := hb.tail ⟨x, rfl⟩
        refine ⟨done, b.refreshStep p x, hdone, hb', hcomm ▸ refreshStep_samePeriph hsame ?_ x⟩
        rw [hcfg, effects_cfg, (refreshedFrom_spec hb).1]
      · simp [State.enabled, htimer, hnot] at he
    · exact ⟨done, b, hdone, hb, samePeriph_iff.2 ⟨ht.trans htimer, htt.trans htop⟩⟩
  no_hazard h := (outline_stoppedUntilLast p).no_hazard h.1
  micro := by
    rintro m rest t ⟨hstop, hcfg, done, b, hdone, hb, hsame⟩ hrest
    obtain rfl : m.periph = p := hstop.2.1 m (by simp)
    refine ⟨(outline_stoppedUntilLast _).micro hstop hrest, by simpa using hcfg, done ++ [m], b, by simpa using hdone,
      hb, ?_⟩
    rw [effects_append]
    have := samePeriph_iff.1 (effect_samePeriph hsame)
    exact samePeriph_iff.2 (by simpa using this)

/-! ### What the micro-steps of a pulse command write (43_timer_operations.md R182, R183, R187 to R191) -/

/-- A compare register after a preparation: CMPA is pinned to the counter's maximum on T8 (43_timer_operations.md
R183). -/
def preparedCmp (p : Periph) (x : Channel) (old : BitVec p.width) : BitVec p.width :=
  if p = .t8 ∧ x = .a then BitVec.allOnes p.width else old

theorem effects_prep_timer (s : State) (cfg : Config) (p : Periph) :
    (effects (prep cfg p) s).timer p =
      { s.timer p with
        ctrlA := 0x07, ctrlB := 0, cnt := BitVec.allOnes p.width, clken := 0x01, imsk := 0x03, iflg := 0
        cmpA := preparedCmp p .a (s.timer p).cmpA } := by
  have hmax : (BitVec.ofNat 32 p.max).setWidth p.width = BitVec.allOnes p.width := by cases p <;> rfl
  have hpin : (255#32).setWidth Periph.t8.width = BitVec.allOnes Periph.t8.width := rfl
  cases p <;>
    simp [prep, MicroStep.effect, State.writeReg, State.timer, State.setTimer, Reg.widthMask, ctrlARun, preparedCmp,
      hmax, hpin]

theorem effects_prep_per (s : State) (cfg : Config) :
    (effects (prep cfg .t16) s).per = BitVec.ofNat 16 (outMax .t16 cfg.fCpu) := by
  simp [prep, MicroStep.effect, State.writeReg]

section
variable (s : State) (cfg : Config) (p : Periph)

theorem compareWrite_effect (x : Channel) (v : Nat) :
    (compareWrite cfg p x v).effect s = s.setTimer p ((s.timer p).setCmp x (inv p cfg.fCpu v)) := by
  have hinv : ((inv p cfg.fCpu v).setWidth 32).setWidth p.width = inv p cfg.fCpu v := by
    cases p <;> exact BitVec.setWidth_setWidth_of_le _ (by decide)
  cases x <;> simp only [compareWrite, MicroStep.effect, State.writeReg, Timer.setCmp, hinv]

theorem dirOr_effect (b : Byte) :
    (MicroStep.dirOr p b).effect s =
      s.setTimer p { s.timer p with dir := ((s.timer p).dir ||| b) &&& 0x03 } := by
  have hdir (d : Byte) : (d.setWidth 32 &&& (0x03 : Operand)).setWidth 8 = d &&& 0x03 := by
    simp
  simp only [MicroStep.effect, State.writeReg, Reg.widthMask, hdir]

theorem clockStart_effect :
    (clockStart cfg p).effect s =
      s.setTimer p { s.timer p with ctrlB := BitVec.ofNat 8 ((cfg.csStart.get p).get cfg.fCpu).value } := by
  have hcode (c : CsCode) : (BitVec.ofNat 32 c.value &&& (0x07 : Operand)).setWidth 8 = BitVec.ofNat 8 c.value := by
    cases c <;> rfl
  simp only [clockStart, csStartValue, MicroStep.effect, State.writeReg, Reg.widthMask, hcode]

end

/-- The compare writes of a pulse command, given the value of each pulsed channel. -/
def pulsedCompares (cfg : Config) (p : Periph) (pulsed : Channel → Option Nat) : List MicroStep :=
  [Channel.a, .b].filterMap fun x => (pulsed x).map (compareWrite cfg p x)

/-- What a pulse command adds to a preparation, given the value of each pulsed channel and the pins it makes outputs. -/
def pulseTail (cfg : Config) (p : Periph) (pulsed : Channel → Option Nat) (pins : Byte) : List MicroStep :=
  pulsedCompares cfg p pulsed ++ [.dirOr p pins, clockStart cfg p]

/-- The compare register of a channel after a pulse command: the inverted value if it is pulsed, else as it was. -/
def pulsedCmp (cfg : Config) (p : Periph) (pulsed : Option Nat) (old : BitVec p.width) : BitVec p.width :=
  (pulsed.map (inv p cfg.fCpu)).getD old

theorem effects_pulsedCompares (s : State) (cfg : Config) (p : Periph) (pulsed : Channel → Option Nat) :
    effects (pulsedCompares cfg p pulsed) s =
      s.setTimer p { s.timer p with
        cmpA := pulsedCmp cfg p (pulsed .a) (s.timer p).cmpA
        cmpB := pulsedCmp cfg p (pulsed .b) (s.timer p).cmpB } := by
  have hself : s = s.setTimer p { s.timer p with cmpA := (s.timer p).cmpA } := (setTimer_self s p).symm
  cases ha : pulsed .a <;> cases hb : pulsed .b <;>
    simp [pulsedCompares, ha, hb, pulsedCmp, compareWrite_effect, Timer.setCmp, ← hself]

theorem effects_pulseTail (s : State) (cfg : Config) (p : Periph) (pulsed : Channel → Option Nat) (pins : Byte) :
    effects (pulseTail cfg p pulsed pins) s =
      s.setTimer p { s.timer p with
        cmpA := pulsedCmp cfg p (pulsed .a) (s.timer p).cmpA
        cmpB := pulsedCmp cfg p (pulsed .b) (s.timer p).cmpB
        dir := ((s.timer p).dir ||| pins) &&& 0x03
        ctrlB := BitVec.ofNat 8 ((cfg.csStart.get p).get cfg.fCpu).value } := by
  rw [pulseTail, effects_append, effects_pulsedCompares]
  simp [dirOr_effect, clockStart_effect]

theorem clockLast_pulseTail (cfg : Config) (p : Periph) (pulsed : Channel → Option Nat) (pins : Byte) :
    ClockLast p ((prep cfg p).tail ++ pulseTail cfg p pulsed pins) := by
  cases p <;> cases ha : pulsed .a <;> cases hb : pulsed .b <;>
    simp [ClockLast, prep, pulseTail, pulsedCompares, ha, hb]

/-! ### The state at completion of a pulse command (43_timer_operations.md R197) -/

/-- While a pulse command executes, the state of P is as if the refreshes so far had all come before its first
micro-step; so it is when the last micro-step completes the command. -/
theorem pulse_completes {p : Periph} {s s1 t : State} {pulsed : Channel → Option Nat}
    {pins : Byte} {as : List Agent}
    (hs1eq : s1 = (s.writeReg p .ctrlB 0).setQueue ((prep s.cfg p).tail ++ pulseTail s.cfg p pulsed pins))
    (hafter : s1.after as = some t) (hpc : t.pc ≠ s.pc)
    (hfirst : ∀ as' u, as' <+: as → as' ≠ as → s1.after as' = some u → u.pc = s.pc) :
    ∃ b, RefreshedFrom p s b ∧ t.samePeriph (effects (prep s.cfg p ++ pulseTail s.cfg p pulsed pins) b) p ∧
      t.resp = ⟨0, 0⟩ ∧ t.pc = s.pc + 1 ∧ t.uq = [] := by
  have hs1pc : s1.pc = s.pc := by simp [hs1eq]
  have hs1uq : s1.uq = (prep s.cfg p).tail ++ pulseTail s.cfg p pulsed pins := by simp [hs1eq]
  have hs1 : AsIfRefreshedFirst p s (prep s.cfg p ++ pulseTail s.cfg p pulsed pins) s1.uq s1 := by
    refine ⟨⟨?_, hs1uq ▸ clockLast_pulseTail _ _ _ _⟩, by simp [hs1eq], [.w p .ctrlB 0], s, by rw [hs1uq]; rfl,
      .refl, ?_⟩
    · rw [hs1eq, setQueue_timer, writeReg_ctrlB_zero_cs]
    · rw [hs1eq]
      exact samePeriph_iff.2 ⟨setQueue_timer _ _ _, setQueue_top _ _ _⟩
  rw [← hs1pc] at hpc hfirst
  obtain ⟨m, u, ⟨hstop, -, done, b, hdone, hb, hsame⟩, hupc, rfl⟩ :=
    (outline_asIfRefreshedFirst p s _).completes hs1 (by rw [hs1uq]; exact List.cons_ne_nil _ _) hafter hpc hfirst
  obtain rfl : m.periph = p := hstop.2.1 m (by simp)
  refine ⟨b, hb, ?_, rfl, by simp [hupc, hs1pc], rfl⟩
  rw [← hdone, effects_append]
  simpa [samePeriph_iff] using samePeriph_iff.1 (effect_samePeriph hsame)

section
variable {p : Periph} {s t b : State} {pulsed : Channel → Option Nat} {pins : Byte} (hb : RefreshedFrom p s b)
  (hsame : t.samePeriph (effects (prep s.cfg p ++ pulseTail s.cfg p pulsed pins) b) p)
include hb hsame

theorem timer_of_pulsed :
    t.timer p =
      { b.timer p with
        ctrlA := 0x07, ctrlB := BitVec.ofNat 8 ((s.cfg.csStart.get p).get s.cfg.fCpu).value
        cnt := BitVec.allOnes p.width, clken := 0x01, imsk := 0x03, iflg := 0
        cmpA := pulsedCmp s.cfg p (pulsed .a) (preparedCmp p .a (b.timer p).cmpA)
        cmpB := pulsedCmp s.cfg p (pulsed .b) (b.timer p).cmpB
        dir := ((s.timer p).dir ||| pins) &&& 0x03 } := by
  obtain ⟨-, -, hdir, -⟩ := refreshedFrom_spec hb
  rw [(samePeriph_iff.1 hsame).1, effects_append, effects_pulseTail, setTimer_timer, effects_prep_timer, hdir]

theorem per_of_pulsed (hp : p = .t16) : t.per = BitVec.ofNat 16 (outMax .t16 s.cfg.fCpu) := by
  subst hp
  refine (samePeriph_iff.1 hsame).2.trans ?_
  rw [effects_append, effects_pulseTail, setTimer_top]
  exact effects_prep_per b s.cfg

theorem cmp_of_pulsed (x : Channel) :
    (t.timer p).cmp x = pulsedCmp s.cfg p (pulsed x) (preparedCmp p x ((b.timer p).cmp x)) := by
  rw [timer_of_pulsed hb hsame]
  cases x with
  | a => rfl
  | b => simp [preparedCmp, Timer.cmp]

theorem oc_of_pulsed (x : Channel) : (t.timer p).oc x = (s.timer p).oc x := by
  obtain ⟨-, -, -, hoc, -⟩ := refreshedFrom_spec hb
  rw [timer_of_pulsed hb hsame, ← hoc x]
  cases x <;> rfl

/-- A pulsed compare register holds the inverted value. -/
theorem cmp_of_pulsed_some {x : Channel} {v : Nat} (hx : pulsed x = some v) (hv : v ≤ outMax p s.cfg.fCpu) :
    ((t.timer p).cmp x).toNat = outMax p s.cfg.fCpu - v := by
  rw [cmp_of_pulsed hb hsame, hx]
  exact toNat_inv hv

/-- The compare register of a channel that is not pulsed: pinned, or as a refresh or no refresh left it (R194). -/
theorem cmp_of_pulsed_none {x : Channel} (hx : pulsed x = none) :
    if p = .t8 ∧ x = .a then (t.timer p).cmp x = BitVec.allOnes p.width
    else (t.timer p).cmp x = (s.timer p).cmp x ∨ (t.timer p).cmp x = s.refreshValue p := by
  obtain ⟨-, -, -, -, hcmp⟩ := refreshedFrom_spec hb
  rw [cmp_of_pulsed hb hsame, hx, pulsedCmp, Option.map_none, Option.getD_none, preparedCmp]
  split
  · rfl
  · exact hcmp x

end

/-- Settles O48: a pulse completes as if every refresh of P had come before its first micro-step. -/
theorem pulseUnderEveryInterleaving : Obligations.PulseUnderEveryInterleaving := by
  intro p cmd s s1 t as hcmd pulsed pins hissue hw hv hexec hafter hpc hfirst
  have hfirstStep : exec cmd s =
      .next ((s.writeReg p .ctrlB 0).setQueue ((prep s.cfg p).tail ++ pulseTail s.cfg p pulsed pins)) := by
    obtain ⟨a, b, rfl⟩ | ⟨v, rfl⟩ | ⟨v, rfl⟩ := hcmd
    · have ha := hv .a a.toNat rfl
      have hb := hv .b b.toNat rfl
      rw [exec_pulse, composite_admitted (pulse_wf ha hb) hw (by simp [ha, hb])]
      rfl
    · have ha := hv .a v.toNat rfl
      rw [exec_pulseA, composite_admitted (pulseA_wf ha) hw (by simpa using ha)]
      rfl
    · have hb := hv .b v.toNat rfl
      rw [exec_pulseB, composite_admitted (pulseB_wf hb) hw (by simpa using hb)]
      rfl
  have hs1 := Host.Outcome.next.inj (hexec.symm.trans hfirstStep)
  obtain ⟨b, hb, hsame, hresp, hpc', huq⟩ := pulse_completes hs1 hafter hpc hfirst
  have htimer := timer_of_pulsed hb hsame
  refine ⟨by rw [htimer], by rw [htimer], by rw [htimer], by rw [htimer], by rw [htimer], by rw [htimer],
    per_of_pulsed hb hsame, fun x => ?_, by rw [htimer], oc_of_pulsed hb hsame, hresp, hpc', huq⟩
  split
  · next v hx => exact cmp_of_pulsed_some hb hsame hx (hv x v hx)
  · next hx => exact cmp_of_pulsed_none hb hsame hx

end Sys2Proof.Machine

/-! Proofs of the family 44_counter_waveform.md: when counter(P) is enabled, what its tick does in a described mode and in any
other, and what a pin shows. -/

namespace Sys2Proof.Machine

/-! ### The mode (44_counter_waveform.md R210, R211) -/

section
variable {w : Nat} (t : Timer w)

/-- CTRLB under the mask of its low three bits is the field CS (10_state.md R34). -/
theorem toNat_ctrlB_and : (t.ctrlB &&& 0x07).toNat = t.cs := by
  rw [BitVec.toNat_and, Timer.cs, BitVec.extractLsb'_toNat, Nat.shiftRight_zero]
  exact Nat.and_two_pow_sub_one_eq_mod t.ctrlB.toNat 3

theorem ctrlB_and_eq_code_iff (c : CsCode) : t.ctrlB &&& 0x07 = BitVec.ofNat 8 c.value ↔ t.cs = c.value := by
  have hc : (BitVec.ofNat 8 c.value).toNat = c.value := by cases c <;> rfl
  rw [← BitVec.toNat_inj, toNat_ctrlB_and, hc]

theorem ctrlB_and_ne_zero_iff : t.ctrlB &&& 0x07 ≠ 0 ↔ t.cs ≠ 0 := by
  rw [Ne, ← BitVec.toNat_inj, toNat_ctrlB_and]
  rfl

end

section
variable (s : State) (p : Periph)

/-- The described modes, by the bits of CTRLB and CTRLA (44_counter_waveform.md R211). -/
theorem modelledMode_iff :
    s.modelledMode p = true ↔
      (∃ c ∈ s.cfg.csValid.get p, (s.timer p).ctrlB &&& 0x07 = BitVec.ofNat 8 c.value) ∧
        (s.timer p).ctrlA.getLsbD 2 = true := by
  simp only [State.modelledMode, Timer.pwm, Bool.and_eq_true, List.any_eq_true, beq_iff_eq, ctrlB_and_eq_code_iff,
    eq_comm (a := (s.timer p).cs)]

theorem halted_eq_false_iff : s.halted = false ↔ s.fault = none ∧ s.refused = none := by
  simp [State.halted]

theorem enabled_counter_iff :
    s.enabled (.counter p) = true ↔
      s.halted = false ∧ (s.timer p).cs ≠ 0 ∧ (s.timer p).en = true ∧ s.cfg.hasTimerHw = true := by
  simp [State.enabled, and_assoc]

end

/-- Settles O50: the masked CTRLB of R210 is the field CS. -/
theorem tickEnabledExactlyWhenRunning : Obligations.TickEnabledExactlyWhenRunning := by
  intro s p
  rw [enabled_counter_iff, halted_eq_false_iff, ctrlB_and_ne_zero_iff, Timer.en]
  tauto

/-- Settles O51: such a mode is not a described one, and there the step is the fault. -/
theorem unmodelledModeRaisesFault : Obligations.UnmodelledModeRaisesFault := by
  intro s p h
  have hmode : s.modelledMode p = false := by
    rw [Bool.eq_false_iff, Ne, modelledMode_iff]
    rintro ⟨⟨c, hc, hcs⟩, hpwm⟩
    obtain hinvalid | hnopwm := h
    · exact hinvalid c hc hcs
    · exact Bool.false_ne_true (hnopwm.symm.trans hpwm)
  exact congrArg Host.Outcome.next (counterStep_faults s p hmode)

/-! ### A tick, in naturals (44_counter_waveform.md R212 to R216) -/

section
variable {w : Nat} (t : Timer w) (top : BitVec w)

/-- A tick wraps from TOP and from MAX (44_counter_waveform.md R213). -/
theorem wraps_iff : t.wraps top = true ↔ t.cnt.toNat = top.toNat ∨ t.cnt.toNat = 2 ^ w - 1 := by
  simp [Timer.wraps, ← BitVec.toNat_inj, BitVec.toNat_allOnes]

/-- A match is a count that equals CMPx and is at most TOP (44_counter_waveform.md R214). -/
theorem hits_iff (x : Channel) :
    t.hits top x = true ↔ t.cnt.toNat ≤ top.toNat ∧ t.cnt.toNat = (t.cmp x).toNat := by
  simp [Timer.hits, BitVec.le_def, ← BitVec.toNat_inj]

theorem tick_cnt_of_wraps (h : t.wraps top = true) : (t.tick top).cnt.toNat = 0 := by
  simp [h]

/-- Below MAX the increment does not overflow. -/
theorem tick_cnt_of_not_wraps (h : ¬t.wraps top = true) : (t.tick top).cnt.toNat = t.cnt.toNat + 1 := by
  have hmax : t.cnt.toNat ≠ 2 ^ w - 1 := fun hm => h ((wraps_iff t top).2 (.inr hm))
  have hlt : t.cnt.toNat + 1 < 2 ^ w := by have := t.cnt.isLt; omega
  have hone : (1 : BitVec w).toNat = 1 := BitVec.toNat_one (Nat.pos_of_ne_zero (by rintro rfl; omega))
  rw [tick_cnt, if_neg h, BitVec.toNat_add_of_lt (by rwa [hone]), hone]

/-- A tick leaves the reserved bits of IFLG (44_counter_waveform.md R215). -/
theorem tick_iflg_reserved : (t.tick top).iflg &&& 0xFC = t.iflg &&& 0xFC := by
  have hflag (x : Channel) (on : Bool) : x.flag on &&& 0xFC = 0 := by cases x <;> cases on <;> rfl
  simp only [Timer.tick, BitVec.and_or_distrib_right, hflag]
  simp

/-- A latch that is not connected holds over a tick (44_counter_waveform.md R216). -/
theorem tick_oc_of_comEn_false {x : Channel} (h : t.comEn x = false) : (t.tick top).oc x = t.oc x := by
  simp [latchAfter, h]

/-- A connected latch is high after a tick that does not wrap, if there is a match or it was high (44_counter_waveform.md
R216). -/
theorem tick_oc_of_comEn_true {x : Channel} (h : t.comEn x = true) :
    (t.tick top).oc x = true ↔ ¬t.wraps top = true ∧ (t.hits top x = true ∨ t.oc x = true) := by
  rw [tick_oc, h]
  cases t.wraps top <;> cases t.hits top x <;> simp [latchAfter]

end

/-- Settles O52: the step is the tick of the model, whose wrap and match are those of R213 and R214. -/
theorem tickCountsMatchesAndWraps : Obligations.TickCountsMatchesAndWraps := by
  intro s p hcs hpwm u c top hit wrap
  have htop : (s.top p).toNat = top := by cases p <;> rfl
  have hwrap : u.wraps (s.top p) = true ↔ wrap := by rw [wraps_iff, htop]; rfl
  have hhit (x : Channel) : u.hits (s.top p) x = true ↔ hit x := by rw [hits_iff, htop]
  have hstep : s.counterStep p = s.setTimer p (u.tick (s.top p)) :=
    counterStep_ticks s p ((modelledMode_iff s p).2 ⟨hcs, hpwm⟩)
  refine ⟨_, congrArg Host.Outcome.next hstep, ?_⟩
  rw [setTimer_timer, ← hwrap]
  refine ⟨rfl, tick_cnt_of_wraps u _, tick_cnt_of_not_wraps u _, fun x => ?_, tick_iflg_reserved u _,
    fun x => tick_oc_of_comEn_false u _, fun x hx => ?_⟩
  · rw [tick_ifl, Bool.or_eq_true, hhit]
  · rw [tick_oc_of_comEn_true u _ hx, hhit]

/-! ### The pins (44_counter_waveform.md R217) -/

/-- Settles O59: R217 is the definition of `State.pin`, DIRx and COMx_EN being the channel's bits of DIR and CTRLA. -/
theorem pinShowsLatchWhenConnected : Obligations.PinShowsLatchWhenConnected := by
  intro s p x
  rfl

end Sys2Proof.Machine

/-! Proofs of the family 60_exceptions.md: the causes of ILLEGAL_COMMAND, UNAVAILABLE without the timer hardware, the halted
machine, and the step of a refresh unit. -/

namespace Sys2Proof

/-! ### Names that a word does not hold (60_exceptions.md R242) -/

theorem ofCode_eq_none_iff (c : BitVec 4) : Op.ofCode c = none ↔ c.toNat = 0x0 ∨ 0xD ≤ c.toNat := by
  revert c; decide

theorem ofIndex_eq_none_iff (c : BitVec 4) : Reg.ofIndex c = none ↔ 10 ≤ c.toNat := by
  revert c; decide

theorem index_toNat_lt (r : Reg) : r.index.toNat < 10 := by cases r <;> decide

theorem index_toNat_inj {r r' : Reg} : r.index.toNat = r'.index.toNat ↔ r = r' := by
  rw [BitVec.toNat_inj]
  exact ⟨fun h => Option.some.inj (by rw [← ofIndex_index, h, ofIndex_index]), congrArg _⟩

theorem eq_zero_iff_ofBit_ne_t8 {b : BitVec 1} : b = 0 ↔ Periph.ofBit b ≠ .t8 := by
  revert b; decide

theorem periph_ne_t16_iff {p : Periph} : p ≠ .t16 ↔ p = .t8 := by cases p <;> decide

/-- Only PER on T8 is a register that the peripheral has not (10_state.md R31). -/
theorem presentOn_eq_false_iff {p : Periph} {r : Reg} :
    r.presentOn p = false ↔ r.index.toNat = 3 ∧ p = .t8 := by
  cases r <;> cases p <;> decide

/-! ### The further constraints that a word breaks (30_encoding.md R97) -/

theorem constraints_rd_eq_false_iff (p : Periph) (sel : BitVec 4) (imm : Operand) :
    Op.constraints .rd p sel imm = false ↔ 10 ≤ sel.toNat ∨ sel.toNat = 3 ∧ p = .t8 := by
  simp only [Op.constraints]
  cases hr : Reg.ofIndex sel with
  | none => simpa using Or.inl ((ofIndex_eq_none_iff sel).mp hr)
  | some r =>
    obtain rfl := index_of_ofIndex hr
    simp [presentOn_eq_false_iff, (index_toNat_lt r).not_ge]

theorem constraints_wr_eq_false_iff (p : Periph) (sel : BitVec 4) (imm : Operand) :
    Op.constraints .wr p sel imm = false ↔
      (10 ≤ sel.toNat ∨ sel.toNat = 3 ∧ p = .t8) ∨
        ∃ r : Reg, r.index.toNat = sel.toNat ∧ imm &&& ~~~(r.widthMask p) ≠ 0 := by
  rw [← constraints_rd_eq_false_iff p sel imm]
  simp only [Op.constraints]
  cases hr : Reg.ofIndex sel with
  | none => simp
  | some r =>
    obtain rfl := index_of_ofIndex hr
    simp only [index_toNat_inj, exists_eq_left, Reg.fits, Bool.and_eq_false_iff, beq_eq_false_iff_ne]

/-! ### The words that are no command (60_exceptions.md R242) -/

theorem decode_isIllegal_iff_not_cmd (w : Word) : (∃ why, decode w = .illegal why) ↔ ¬∃ i, decode w = .cmd i := by
  cases decode w <;> simp

/-- A word with a reserved opcode is illegal, in no row or with a reserved field that is not 0 (30_encoding.md R99). -/
theorem decode_isIllegal_of_ofCode_eq_none {w : Word} (h : Op.ofCode (Fields.ofWord w).opc = none) :
    ∃ why, decode w = .illegal why := by
  rw [decode_isIllegal_iff_not_cmd]
  rintro ⟨i, hi⟩
  obtain ⟨-, -, op, hopc, -⟩ := decode_eq_cmd_iff.mp hi
  simp [hopc] at h

/-- A word with the opcode of a row is illegal when a reserved field is not 0 or it breaks what the row asks. -/
theorem decode_isIllegal_iff_of_opcode {w : Word} {op : Op} (h : (Fields.ofWord w).opc = op.code) :
    (∃ why, decode w = .illegal why) ↔
      ((Fields.ofWord w).rsv1 ≠ 0 ∨ (Fields.ofWord w).rsv2 ≠ 0) ∨ ¬op.unusedZero (Fields.ofWord w) ∨
        op.constraints (Periph.ofBit (Fields.ofWord w).p) (Fields.ofWord w).sel (Fields.ofWord w).imm = false := by
  have hcmd : (∃ i, decode w = .cmd i) ↔
      (Fields.ofWord w).rsv1 = 0 ∧ (Fields.ofWord w).rsv2 = 0 ∧ ∃ i, decodeOperands op (Fields.ofWord w) = .cmd i := by
    simp [decode_eq_cmd_iff, h, ← ofCode_inj_iff]
  rw [decode_isIllegal_iff_not_cmd, hcmd, decodeOperands_isCmd_iff, Bool.eq_false_iff]
  tauto

end Sys2Proof

namespace Sys2Proof.Machine

/-- Settles O4: a word with a reserved opcode is illegal, and for every other opcode the causes listed for it are the
reserved fields and what its row asks. -/
theorem illegalCommandCauses : Obligations.IllegalCommandCauses := by
  refine ⟨fun w => ?_, fun s w why hs hw => by rw [controllerStep_of_issues hs, runWord_of_illegal s hw]⟩
  intro opc p sel imm
  have hbit : (Fields.ofWord w).p = 0#1 ↔ p ≠ .t8 := eq_zero_iff_ofBit_ne_t8
  have hsel : (Fields.ofWord w).sel.toNat = sel := rfl
  have hsel0 : (Fields.ofWord w).sel = 0#4 ↔ sel = 0 := BitVec.toNat_inj.symm
  have himm : (Fields.ofWord w).imm = imm := rfl
  cases hop : Op.ofCode (Fields.ofWord w).opc with
  | none => exact iff_of_true (decode_isIllegal_of_ofCode_eq_none hop) (.inl ((ofCode_eq_none_iff _).mp hop))
  | some op =>
    have hcode := ofCode_inj_iff.mp hop
    have hopc : opc = op.code.toNat := congrArg BitVec.toNat hcode
    have hreserved : ¬(opc = 0x0 ∨ 0xD ≤ opc) := fun h =>
      Option.some_ne_none op (hop.symm.trans ((ofCode_eq_none_iff _).mpr h))
    rw [or_iff_right hreserved, hopc]
    refine (decode_isIllegal_iff_of_opcode hcode).trans (or_congr_right ?_)
    change ¬op.unusedZero (Fields.ofWord w) ∨ op.constraints p (Fields.ofWord w).sel imm = false ↔ _
    cases op with
    | wr => simp [constraints_wr_eq_false_iff, Op.code, Op.unusedZero, hsel]
    | rd => simp [constraints_rd_eq_false_iff, Op.code, Op.unusedZero, hsel, himm, or_comm]
    | limit | bit | conv | caps | prepare | start | pulse | pulseA | pulseB | stop =>
      simp [Op.code, Op.unusedZero, Op.constraints, hbit, hsel0, himm, periph_ne_t16_iff, imp_iff_not_or]

/-! ### A halted machine (60_exceptions.md R248) -/

theorem halted_eq_true_iff {s : State} : s.halted = true ↔ s.fault ≠ none ∨ s.refused ≠ none := by
  simp [State.halted, Option.isSome_iff_ne_none]

section
variable {s : State} (h : s.halted = true)
include h

theorem enabled_eq_false_of_halted (a : Agent) : s.enabled a = false :=
  Bool.eq_false_iff.mpr fun ha => Bool.false_ne_true ((enabled_live s ha).symm.trans h)

theorem step_ne_next_of_halted (t : State) : step s ≠ .next t := by
  intro hstep
  obtain ⟨hlive, -⟩ := step_cases s hstep
  exact Bool.false_ne_true (((halted_eq_false_iff s).mpr hlive).symm.trans h)

theorem atEnd_eq_false_of_halted : s.atEnd = false := by
  simp [State.atEnd, h]

end

/-- Settles O11: an enabled agent, a step and the end of a run each ask for a state that has not halted. -/
theorem haltedMachineTakesNoStep : Obligations.HaltedMachineTakesNoStep := by
  intro s hs
  have h := halted_eq_true_iff.mpr hs
  exact ⟨enabled_eq_false_of_halted h, fun a t => by simp [take_halted s h], step_ne_next_of_halted h,
    atEnd_eq_false_of_halted h⟩

/-! ### The check of the timer hardware (60_exceptions.md R243, R249) -/

/-- For a legal command without the timer hardware the checks raise UNAVAILABLE, whatever the values pulsed. -/
theorem checked_unavailable {s : State} {i : Instr} (hwf : i.wf = true) (hw : s.cfg.hasTimerHw = false) (p : Periph)
    (vs : List Nat) (run : State) :
    s.checked i p vs run = s.raiseFault .unavailable (some (encode i)) .controller := by
  rw [State.checked, legal_pass s hwf, if_pos hw]

/-- Every register-touching command is its checks and then what it does if they pass. -/
theorem exec_checked {i : Instr} (s : State)
    (hi : i.op ∈ [Op.wr, .rd, .prepare, .start, .pulse, .pulseA, .pulseB, .stop]) :
    ∃ p vs run, exec i s = .next (s.checked i p vs run) := by
  cases i with
  | wr | rd | prepare | start | pulse | pulseA | pulseB | stop => exact ⟨_, _, _, rfl⟩
  | limit | bit | conv | caps => simp [Instr.op] at hi

/-- Settles O35: the check of the hardware comes before anything the command does. -/
theorem unavailableWithoutHardware : Obligations.UnavailableWithoutHardware := by
  intro i s hwf hi hw
  obtain ⟨p, vs, run, hexec⟩ := exec_checked s hi
  rw [hexec, checked_unavailable hwf hw]
  rfl

/-! ### The refresh units (60_exceptions.md R252, R253) -/

section
variable (s : State) (p : Periph) (x : Channel)

theorem enabled_refresh_iff :
    s.enabled (.refresh p x) = true ↔
      s.halted = false ∧ (s.timer p).ifl x = true ∧ (s.timer p).ie x = true ∧ s.cfg.hasTimerHw = true := by
  simp [State.enabled, Timer.pending, and_assoc]

theorem toNat_refreshValue :
    (s.refreshValue p).toNat = match s.cfg.refreshSel.get p, p with
      | .max, _ => p.max
      | .top, .t16 => s.per.toNat
      | .top, .t8 => 255 := by
  unfold State.refreshValue
  cases s.cfg.refreshSel.get p <;> cases p <;> rfl

end

/-- Settles O55: the conditions are those of a pending interrupt on a live machine with the hardware, and the step is
`refreshStep`. -/
theorem refreshResetsCompareAndFlag : Obligations.RefreshResetsCompareAndFlag := by
  intro s p x
  refine ⟨?_, _, rfl, ?_, ?_, refreshStep_frame s p x⟩
  · rw [enabled_refresh_iff, halted_eq_false_iff, Timer.ifl, Timer.ie]
    tauto
  · rw [refreshStep_cmp_same]
    exact toNat_refreshValue s p
  · rw [refreshStep_timer]

end Sys2Proof.Machine

/-! Proofs of the encoding's round trip and its examples: a command survives its word, and a word its command
(30_encoding.md R91 to R98). -/

namespace Sys2Proof

/-! ### PULSE's operand, one value in each half (30_encoding.md R95) -/

theorem append_eq_zero_iff (a b : BitVec 16) : b ++ a = (0 : Operand) ↔ b = 0 ∧ a = 0 := by
  refine ⟨fun h => ⟨?_, ?_⟩, ?_⟩
  · rw [← highHalf_append a b, h]; rfl
  · rw [← lowHalf_append a b, h]; rfl
  · rintro ⟨rfl, rfl⟩; rfl

/-- A half has no bit under the mask of its high byte exactly when it is at most 255. -/
theorem and_highByte_eq_zero_iff (a : BitVec 16) : a &&& 0xFF00 = 0 ↔ a.toNat ≤ 255 := by
  have hmask : (0xFF00 : BitVec 16) = BitVec.allOnes 16 <<< 8 := rfl
  have hlt := a.isLt
  rw [hmask, ← BitVec.shiftLeft_ushiftRight, ← BitVec.toNat_inj]
  simp only [BitVec.toNat_shiftLeft, BitVec.toNat_ushiftRight, Nat.shiftLeft_eq, Nat.shiftRight_eq_div_pow,
    BitVec.ofNat_eq_ofNat, BitVec.toNat_ofNat]
  omega

/-- PULSE's operand has no bit outside the peripheral's width exactly when both its halves fit. -/
theorem pulse_fits_iff (p : Periph) (a b : BitVec 16) :
    p = .t16 ∨ (b ++ a) &&& 0xFF00FF00 = (0 : Operand) ↔ (Instr.pulse p a b).wf = true := by
  have hmask : (0xFF00FF00 : Operand) = (0xFF00 : BitVec 16) ++ (0xFF00 : BitVec 16) := rfl
  have hwf : (Instr.pulse p a b).wf = true ↔ a.toNat ≤ p.max ∧ b.toNat ≤ p.max := by simp [Instr.wf]
  rw [hmask, BitVec.and_append, append_eq_zero_iff, and_highByte_eq_zero_iff, and_highByte_eq_zero_iff, hwf]
  cases p with
  | t16 => exact iff_of_true (.inl rfl) ⟨Nat.le_sub_one_of_lt a.isLt, Nat.le_sub_one_of_lt b.isLt⟩
  | t8 => rw [or_iff_right (by simp)]; exact and_comm

/-! ### The round trip (30_encoding.md R97, R98) -/

/-- The row of a well-formed command answers it on the encoder's fields. -/
theorem decodeOperands_encodeFields {i : Instr} (h : i.wf = true) :
    decodeOperands i.op (encodeFields i) = .cmd i := by
  cases i with
  | pulse p a b =>
    have hfits := (pulse_fits_iff p a b).2 h
    simpa [decodeOperands, encodeFields, Instr.op] using hfits
  | limit | bit | conv | caps | wr | rd | prepare | start | pulseA | pulseB | stop =>
    simp_all [decodeOperands, encodeFields, Instr.op, Instr.wf]

/-- The fields of a row's word whose reserved fields are 0. -/
abbrev Op.fields (op : Op) (p : BitVec 1) (sel : BitVec 4) (imm : Operand) : Fields :=
  { opc := op.code, p := p, rsv1 := 0, sel := sel, rsv2 := 0, imm := imm }

/-- A command a row answers is well-formed, and the encoder lays down the fields it was read from. -/
theorem encodeFields_of_decodeOperands {op : Op} {p : BitVec 1} {sel : BitVec 4} {imm : Operand} {i : Instr}
    (h : decodeOperands op (op.fields p sel imm) = .cmd i) :
    i.wf = true ∧ encodeFields i = op.fields p sel imm := by
  cases op <;> simp only [decodeOperands, need_eq_cmd, Verdict.cmd.injEq] at h
  case wr | rd =>
    split at h
    · cases h
    · next r hr =>
      obtain rfl := index_of_ofIndex hr
      simp only [need_eq_cmd, Verdict.cmd.injEq] at h
      obtain ⟨hp, hv, rfl⟩ := h
      simp_all [encodeFields, Op.fields, Instr.op, Instr.wf]
  case pulse =>
    obtain ⟨hsel, hfits, rfl⟩ := h
    have hwf := (pulse_fits_iff (Periph.ofBit p) (imm.extractLsb' 0 16) (imm.extractLsb' 16 16)).1
      (by simpa [append_halves] using hfits)
    simp_all [encodeFields, Op.fields, Instr.op, append_halves]
  case conv =>
    obtain ⟨hsel, rfl⟩ := h
    simp_all [encodeFields, Op.fields, Instr.op, Instr.wf]
  case caps =>
    obtain ⟨hp, hsel, himm, rfl⟩ := h
    simp_all [encodeFields, Op.fields, Instr.op, Instr.wf]
  all_goals
    obtain ⟨hunused, hoperand, rfl⟩ := h
    simp_all [encodeFields, Op.fields, Instr.op, Instr.wf]

/-- Settles O1: the decoder reads the encoder's fields, and their row answers the command. -/
theorem decodeOfEncodeIsCommand : Obligations.DecodeOfEncodeIsCommand := by
  intro i h
  rw [decode_encode_fields, decodeOperands_encodeFields h]

/-- Settles O2: the fields of the word are those the encoder lays down, and a word is its fields. -/
theorem encodeOfDecodeIsWord : Obligations.EncodeOfDecodeIsWord := by
  intro w i h
  obtain ⟨hrsv1, hrsv2, op, hopc, hi⟩ := decode_eq_cmd_iff.mp h
  have hw : Fields.ofWord w = op.fields (Fields.ofWord w).p (Fields.ofWord w).sel (Fields.ofWord w).imm := by
    rw [Op.fields, ← hopc, ← hrsv1, ← hrsv2]
  rw [hw] at hi
  obtain ⟨hwf, hfields⟩ := encodeFields_of_decodeOperands hi
  exact ⟨hwf, by rw [encode, hfields, ← hw, toWord_ofWord]⟩

/-- Settles O6: closed words, decoded. -/
theorem encodingExamplesDecode : Obligations.EncodingExamplesDecode := by
  unfold Obligations.EncodingExamplesDecode
  decide

end Sys2Proof

/-! Proofs about the step: which agent takes it, what the controller can do in it, and what every step keeps (10_state.md
R21, R25, R26, R30; 20_memory.md R79). -/

namespace Sys2Proof.Machine

/-! ### The step of an enabled agent (20_memory.md R79) -/

/-- Every step of an enabled agent answers a next state. -/
theorem agentStep_next_of_enabled {s : State} {a : Agent} (h : s.enabled a = true) : ∃ t, s.agentStep a = .next t := by
  cases a with
  | counter p => exact ⟨_, rfl⟩
  | refresh p x => exact ⟨_, rfl⟩
  | controller =>
    simp only [State.agentStep, State.controllerStep]
    cases huq : s.uq with
    | cons m rest => exact ⟨_, rfl⟩
    | nil =>
      have hpc : s.pc < s.program.length := by simpa [State.enabled, huq, enabled_live s h] using h
      simp only [State.fetch, List.getElem?_eq_getElem hpc, State.runWord]
      cases decode s.program[s.pc] with
      | cmd i => exact exec_next s i
      | illegal why => exact ⟨_, rfl⟩

theorem live_of_enabled {s : State} {a : Agent} (h : s.enabled a = true) : s.live :=
  (halted_eq_false_iff s).1 (enabled_live s h)

/-- Settles O9: a step is the chosen agent's, which is enabled; and the agent the interleaving names first is chosen. -/
theorem anyEnabledAgentMayStep : Obligations.AnyEnabledAgentMayStep := by
  refine ⟨fun s t h => ?_, fun s a rest ha hs => ?_⟩
  · obtain ⟨-, a, s', -, ha, hs', ht⟩ := step_cases s h
    exact ⟨a, s', ha, hs', ht⟩
  · obtain ⟨t, ht⟩ := agentStep_next_of_enabled ((enabled_setSchedule s rest s.turn a).trans ha)
    exact ⟨t, (step_of_choose s (live_of_enabled ha) (choose_sched s hs ha)).trans ht, ht⟩

/-- Settles O10: there is a choice exactly when some agent is enabled, and the step of the agent chosen answers. -/
theorem stepAnswersIffSomeAgentEnabled : Obligations.StepAnswersIffSomeAgentEnabled := by
  intro s
  constructor
  · rintro ⟨t, h⟩
    obtain ⟨-, a, -, -, ha, -⟩ := step_cases s h
    exact ⟨a, ha⟩
  · rintro ⟨a, ha⟩
    have hsome : s.choose ≠ none := fun hnone => by simp [(choose_none s).1 hnone a] at ha
    obtain ⟨⟨b, s'⟩, hc⟩ := Option.ne_none_iff_exists'.1 hsome
    obtain ⟨hb, hs'⟩ := choose_spec s hc
    obtain ⟨t, ht⟩ := agentStep_next_of_enabled ((sameButSchedule_enabled hs' b).trans hb)
    exact ⟨t, (step_of_choose s (live_of_enabled ha) hc).trans ht⟩

/-! ### The controller's step (10_state.md R26) -/

theorem issues_setSchedule {s : State} {w : Word} (h : s.issues w) (sc : List Agent) (n : Nat) :
    (s.setSchedule sc n).issues w := h

/-- When the choice falls on the controller, it runs the word the host has issued. -/
theorem step_of_issues {s s' : State} {w : Word} (hs : s.issues w) (hc : s.choose = some (.controller, s')) :
    step s = s'.runWord w ∧ s'.pc = s.pc ∧ s.sameButSchedule s' := by
  have hsame := (choose_spec s hc).2
  have hs' : s' = s.setSchedule s'.sched s'.turn := hsame.symm
  refine ⟨?_, by rw [hs']; rfl, hsame⟩
  rw [step_of_choose s hs.1 hc]
  exact controllerStep_of_issues (by rw [hs']; exact issues_setSchedule hs _ _)

theorem decode_of_reserved {w : Word} (h : w.extractLsb' 56 3 ≠ 0 ∨ w.extractLsb' 32 20 ≠ 0) :
    decode w = .illegal .reservedField := by
  have hf : ((Fields.ofWord w).rsv1 == 0 && (Fields.ofWord w).rsv2 == 0) = false := by
    simpa [Fields.ofWord, imp_iff_not_or] using h
  simp only [decode, decodeFields, hf, Verdict.need]
  rfl

/-- Settles O5: the decoder looks at the reserved fields first, and the controller runs the word. -/
theorem reservedFieldRaisesIllegal : Obligations.ReservedFieldRaisesIllegal := by
  intro s s' w hs hc hrsv
  obtain ⟨hstep, hpc, -⟩ := step_of_issues hs hc
  have hdec := decode_of_reserved hrsv
  exact ⟨hdec, by rw [hstep, runWord_of_illegal s' hdec, hpc]⟩

/-- Settles O7: running a word that decodes to a command is executing it. -/
theorem stepRunsDecodedCommand : Obligations.StepRunsDecodedCommand := by
  intro s s' w i hs hdec hc
  obtain ⟨hstep, -, hsame⟩ := step_of_issues hs hc
  exact ⟨by rw [hstep, State.runWord, hdec], hsame⟩

/-- Settles O8: the controller's step takes the head of µq, and its hazard check does not read the schedule. -/
theorem stepExecutesHeadMicroStep : Obligations.StepExecutesHeadMicroStep := by
  intro s s' m rest hl huq hc hm
  have hsame := (choose_spec s hc).2
  obtain ⟨sc, n, rfl⟩ : ∃ sc n, s' = s.setSchedule sc n := ⟨_, _, hsame.symm⟩
  have hm' : m.hazard (s.setSchedule sc n) = false := by
    rw [← hm]
    cases m with
    | w p r v => simp only [MicroStep.hazard, State.hazard, setSchedule_timer]
    | dirOr p b => rfl
  have hstep : step s = .next ((s.setSchedule sc n).runMicro s.fetch (m :: rest)) := by
    rw [step_of_choose s hl hc]
    simp only [State.agentStep, State.controllerStep, setSchedule_uq, huq]
    rfl
  rw [hstep]
  obtain ⟨h, -⟩ | ⟨-, hrest, h⟩ | ⟨-, hrest, h⟩ := runMicro_cases (s.setSchedule sc n) s.fetch m rest
  · simp [hm'] at h
  · exact ⟨hsame, fun _ => by rw [h]; rfl, fun hnil => absurd hnil hrest⟩
  · refine ⟨hsame, fun hne => absurd hrest hne, fun _ => ?_⟩
    rw [h]
    simp [State.complete, State.setQueue, statusOk]

/-- Everything a step of the controller can do: raise a fault, refuse, complete a command that touches no register,
execute a micro-step with others pending, or execute the last micro-step (a WR is its one) and complete. -/
inductive ControllerMove (s : State) : State → Prop
  | fault (code : FaultCode) (word : Option Word) : ControllerMove s (s.raiseFault code word .controller)
  | refused (why : RefusalReason) (word : Word) : ControllerMove s (s.refuse why word)
  | pure (draws : Nat) (r : Resp) (huq : s.uq = []) : ControllerMove s (({ s with draws := draws } : State).complete r)
  | micro (m : MicroStep) (rest : List MicroStep) (hrest : rest ≠ []) : ControllerMove s ((m.effect s).setQueue rest)
  | last (m : MicroStep) : ControllerMove s (((m.effect s).setQueue []).complete ⟨0, statusOk⟩)

section
variable {s t : State}

theorem runMicro_move (w : Option Word) (m : MicroStep) (rest : List MicroStep) :
    ControllerMove s (s.runMicro w (m :: rest)) := by
  obtain ⟨-, h⟩ | ⟨-, hrest, h⟩ | ⟨-, -, h⟩ := runMicro_cases s w m rest <;> rw [h]
  · exact .fault _ _
  · exact .micro m rest hrest
  · exact .last m

theorem checked_move {run : State} (i : Instr) (p : Periph) (vs : List Nat) (h : ControllerMove s run) :
    ControllerMove s (s.checked i p vs run) := by
  obtain hc | hc | hc | ⟨-, hc⟩ := checked_cases s i p vs run <;> rw [hc]
  · exact .fault _ _
  · exact .fault _ _
  · exact .refused _ _
  · exact h

/-- A composite command has at least one micro-step. -/
theorem composite_move (i : Instr) (p : Periph) (vs : List Nat) {steps : List MicroStep} (h : steps ≠ []) :
    ControllerMove s (s.composite i p vs steps) := by
  obtain ⟨m, rest, rfl⟩ := List.exists_cons_of_ne_nil h
  exact checked_move i p vs (runMicro_move _ m rest)

section
variable (huq : s.uq = [])
include huq

theorem complete_move (r : Resp) : ControllerMove s (s.complete r) := .pure s.draws r huq

theorem completeConv_move (w nanos scaled : Nat) : ControllerMove s (s.completeConv w nanos scaled) := by
  unfold State.completeConv
  split
  · exact complete_move huq _
  · exact .pure (s.draws + 1) _ huq

theorem conv16_move (code : BitVec 4) (nanos : Nat) : ControllerMove s (s.conv16 code nanos) := by
  unfold State.conv16
  split
  · exact complete_move huq _
  · exact completeConv_move huq _ _ _

theorem execConv_move {p : Periph} {code : BitVec 4} {nanos : Operand} (h : execConv p code nanos s = .next t) :
    ControllerMove s t := by
  obtain rfl := Host.Outcome.next.inj h
  unfold State.legal
  split
  · exact .fault _ _
  · cases p with
    | t16 => exact conv16_move huq _ _
    | t8 => exact completeConv_move huq _ _ _

theorem execWr_move {p : Periph} {r : Reg} {v : Operand} (h : execWr p r v s = .next t) : ControllerMove s t := by
  obtain rfl := Host.Outcome.next.inj h
  refine checked_move _ p [] ?_
  split
  · exact .fault _ _
  · have hq : ((MicroStep.w p r v).effect s).setQueue [] = s.writeReg p r v := by
      have huq' : (s.writeReg p r v).uq = [] := (writeReg_uq s p r v).trans huq
      rw [← huq']
      rfl
    exact hq ▸ .last (.w p r v)

theorem exec_move {i : Instr} (h : exec i s = .next t) : ControllerMove s t := by
  cases i with
  | limit | bit | caps => obtain rfl := Host.Outcome.next.inj h; exact complete_move huq _
  | conv p code nanos => exact execConv_move huq h
  | wr p r v => exact execWr_move huq h
  | rd p r => obtain rfl := Host.Outcome.next.inj h; exact checked_move _ p [] (complete_move huq _)
  | prepare | start | pulse | pulseA | pulseB | stop =>
    obtain rfl := Host.Outcome.next.inj h
    exact composite_move _ _ _ (List.cons_ne_nil _ _)

end

theorem controllerStep_move (h : s.controllerStep = .next t) : ControllerMove s t := by
  unfold State.controllerStep at h
  split at h
  · obtain rfl := Host.Outcome.next.inj h
    exact runMicro_move _ _ _
  · next huq =>
    split at h
    · unfold State.runWord at h
      split at h
      · exact exec_move huq h
      · obtain rfl := Host.Outcome.next.inj h
        exact .fault _ _
    · cases h

end

/-! ### What every step keeps -/

/-- What every step of an enabled agent does, and what does not read the schedule, every step of the machine does. -/
theorem of_step {R : State → State → Prop} (hsched : ∀ s sc n t, R (s.setSchedule sc n) t → R s t)
    (hagent : ∀ s a t, s.enabled a = true → s.agentStep a = .next t → R s t) {s t : State} (h : step s = .next t) :
    R s t := by
  obtain ⟨-, a, s', -, ha, hs', ht⟩ := step_cases s h
  have hR := hagent s' a t ((sameButSchedule_enabled hs' a).trans ha) ht
  rw [← hs'] at hR
  exact hsched s _ _ t hR

/-- The controller's step changes neither the configuration nor the program. -/
theorem controllerMove_fixed {s t : State} (h : ControllerMove s t) : t.cfg = s.cfg ∧ t.program = s.program := by
  cases h <;> simp

theorem agentStep_fixed {s t : State} {a : Agent} (h : s.agentStep a = .next t) :
    t.cfg = s.cfg ∧ t.program = s.program := by
  cases a with
  | controller => exact controllerMove_fixed (controllerStep_move h)
  | counter p => obtain rfl := Host.Outcome.next.inj h; simp
  | refresh p x => obtain rfl := Host.Outcome.next.inj h; simp

/-- Settles O12: no agent writes either. -/
theorem configurationNeverChanges : Obligations.ConfigurationNeverChanges := by
  intro s t h
  exact of_step (R := fun s t => t.cfg = s.cfg ∧ t.program = s.program) (fun _ _ _ _ h => h)
    (fun _ _ _ _ h => agentStep_fixed h) h

/-! ### pc and RESP (10_state.md R25, R26) -/

/-- pc and RESP stay, or a command completes. -/
def StaysOrCompletes (s t : State) : Prop :=
  (t.pc = s.pc ∧ t.resp = s.resp) ∨ (t.pc = s.pc + 1 ∧ t.uq = [] ∧ t.fault = none ∧ t.refused = none)

theorem controllerMove_staysOrCompletes {s t : State} (hl : s.live) (h : ControllerMove s t) :
    StaysOrCompletes s t := by
  obtain ⟨hfault, hrefused⟩ := hl
  cases h with
  | fault code word => exact .inl ⟨rfl, rfl⟩
  | refused why word => exact .inl ⟨rfl, rfl⟩
  | micro m rest hrest => exact .inl ⟨by simp, by simp⟩
  | pure draws r huq => exact .inr ⟨rfl, huq, hfault, hrefused⟩
  | last m => exact .inr ⟨by simp, rfl, by simp [hfault], by simp [hrefused]⟩

/-- The controller has a step only while pc is below the program's length. -/
theorem pc_lt_of_enabled {s : State} (hs : s.pcInProgram) (h : s.enabled .controller = true) :
    s.pc < s.program.length := by
  cases huq : s.uq with
  | cons m rest => exact hs.2 (by simp [huq])
  | nil => simpa [State.enabled, huq, enabled_live s h] using h

/-- The step of an enabled agent keeps pc within the program. -/
theorem agentStep_pc {s t : State} {a : Agent} (hs : s.pcInProgram) (ha : s.enabled a = true)
    (h : s.agentStep a = .next t) : t.pcInProgram ∧ StaysOrCompletes s t := by
  cases a with
  | counter p =>
    obtain rfl := Host.Outcome.next.inj h
    exact ⟨by simpa [State.pcInProgram] using hs, .inl (by simp)⟩
  | refresh p x =>
    obtain rfl := Host.Outcome.next.inj h
    exact ⟨by simpa [State.pcInProgram] using hs, .inl (by simp)⟩
  | controller =>
    have hmove := controllerStep_move h
    have hlt := pc_lt_of_enabled hs ha
    have hstays := controllerMove_staysOrCompletes (live_of_enabled ha) hmove
    refine ⟨?_, hstays⟩
    rw [State.pcInProgram, (controllerMove_fixed hmove).2]
    obtain ⟨hpc, -⟩ | ⟨hpc, huq, -⟩ := hstays
    · exact ⟨hpc ▸ hlt.le, fun _ => hpc ▸ hlt⟩
    · exact ⟨hpc ▸ hlt, fun hne => absurd huq hne⟩

/-- Settles O13: the controller, below the end of the program, leaves pc or completes a command; no other agent touches
its fields. -/
theorem pcAdvancesOnlyAtCompletion : Obligations.PcAdvancesOnlyAtCompletion := by
  intro s t hs h
  exact of_step (R := fun s t => s.pcInProgram → t.pcInProgram ∧ StaysOrCompletes s t) (fun _ _ _ _ h => h)
    (fun _ _ _ ha h hs => agentStep_pc hs ha h) h hs

/-! ### Reserved bits (10_state.md R30) -/

theorem reservedClear_iff {s : State} : s.reservedClear ↔ ∀ p, (s.timer p).reservedClear :=
  ⟨fun h p => by cases p; exacts [h.1, h.2], fun h => ⟨h .t16, h .t8⟩⟩

/-- A value under a mask that holds none of some bits has none of them. -/
theorem and_and_eq_zero {m r : Byte} (h : m &&& r = 0) (b : Byte) : b &&& m &&& r = 0 := by
  rw [BitVec.and_assoc, h]; exact BitVec.and_zero

/-- What an 8-bit register takes has no reserved bit. -/
theorem setWidth_and_reserved {m : Operand} {r : Byte} (h : m.setWidth 8 &&& r = 0) (v : Operand) :
    (v &&& m).setWidth 8 &&& r = 0 := by
  rw [BitVec.setWidth_and]; exact and_and_eq_zero h _

/-- A replacement of one peripheral's registers keeps the reserved bits of both if it keeps its own. -/
theorem setTimer_reservedClear {s : State} {p : Periph} {u : Timer p.width} (hs : s.reservedClear)
    (hu : u.reservedClear) : (s.setTimer p u).reservedClear := by
  obtain ⟨h16, h8⟩ := hs
  cases p with
  | t16 => exact ⟨hu, h8⟩
  | t8 => exact ⟨h16, hu⟩

theorem writeReg_reservedClear {s : State} (h : s.reservedClear) (p : Periph) (r : Reg) (v : Operand) :
    (s.writeReg p r v).reservedClear := by
  obtain ⟨hA, hB, hM, hF, hD, hC⟩ := reservedClear_iff.1 h p
  have hbyte {res : Byte} (hmask : (r.widthMask p).setWidth 8 &&& res = 0) :
      (v &&& r.widthMask p).setWidth 8 &&& res = 0 := setWidth_and_reserved hmask v
  cases r with
  | ctrlA => exact setTimer_reservedClear h ⟨hbyte (by simp [Reg.widthMask]), hB, hM, hF, hD, hC⟩
  | ctrlB => exact setTimer_reservedClear h ⟨hA, hbyte (by simp [Reg.widthMask]), hM, hF, hD, hC⟩
  | imsk => exact setTimer_reservedClear h ⟨hA, hB, hbyte (by simp [Reg.widthMask]), hF, hD, hC⟩
  | iflg => exact setTimer_reservedClear h ⟨hA, hB, hM, and_and_eq_zero (m := 0x03) rfl _, hD, hC⟩
  | dir => exact setTimer_reservedClear h ⟨hA, hB, hM, hF, hbyte (by simp [Reg.widthMask]), hC⟩
  | clken => exact setTimer_reservedClear h ⟨hA, hB, hM, hF, hD, hbyte (by simp [Reg.widthMask])⟩
  | cnt | cmpA | cmpB => exact setTimer_reservedClear h ⟨hA, hB, hM, hF, hD, hC⟩
  | per => cases p <;> exact h

theorem effect_reservedClear {s : State} (h : s.reservedClear) (m : MicroStep) : (m.effect s).reservedClear := by
  cases m <;> exact writeReg_reservedClear h _ _ _

theorem controllerMove_reservedClear {s t : State} (hs : s.reservedClear) (h : ControllerMove s t) :
    t.reservedClear := by
  cases h with
  | fault code word => exact hs
  | refused why word => exact hs
  | pure draws r huq => exact hs
  | micro m rest hrest => exact effect_reservedClear hs m
  | last m => exact effect_reservedClear hs m

theorem counterStep_reservedClear {s : State} (hs : s.reservedClear) (p : Periph) :
    (s.counterStep p).reservedClear := by
  cases hm : s.modelledMode p with
  | false => rw [counterStep_faults s p hm]; exact hs
  | true =>
    rw [counterStep_ticks s p hm]
    obtain ⟨hA, hB, hM, hF, hD, hC⟩ := reservedClear_iff.1 hs p
    exact setTimer_reservedClear hs ⟨hA, hB, hM, (tick_iflg_reserved _ _).trans hF, hD, hC⟩

theorem refreshStep_reservedClear {s : State} (hs : s.reservedClear) (p : Periph) (x : Channel) :
    (s.refreshStep p x).reservedClear := by
  obtain ⟨hA, hB, hM, hF, hD, hC⟩ := reservedClear_iff.1 hs p
  have hflag : (s.timer p).iflg &&& ~~~x.mask &&& 0xFC = 0 := by
    rw [BitVec.and_assoc, BitVec.and_comm (~~~x.mask), ← BitVec.and_assoc, hF]; exact BitVec.zero_and
  rw [State.refreshStep]
  exact setTimer_reservedClear hs ⟨by simpa, by simpa, by simpa, by simpa, by simpa, by simpa⟩

/-- Settles O18: a write masks its value, a tick sets flag bits only, a refresh clears one. -/
theorem reservedBitsStayClear : Obligations.ReservedBitsStayClear := by
  intro s t hs h
  refine of_step (R := fun s t => s.reservedClear → t.reservedClear) (fun _ _ _ _ h => h) (fun s a t _ h hs => ?_) h hs
  cases a with
  | controller => exact controllerMove_reservedClear hs (controllerStep_move h)
  | counter p => obtain rfl := Host.Outcome.next.inj h; exact counterStep_reservedClear hs p
  | refresh p x => obtain rfl := Host.Outcome.next.inj h; exact refreshStep_reservedClear hs p x

/-! ### Reset (10_state.md R47, R48; 70_reset_and_hazards.md R280) -/

theorem launch_reservedClear (cfg : Config) (program : List Word) : (State.launch cfg program).reservedClear := by
  refine reservedClear_iff.2 fun p => ?_
  obtain ⟨k, hk⟩ := launch_timer cfg program p
  rw [hk]
  exact ⟨BitVec.zero_and, BitVec.zero_and, BitVec.zero_and, BitVec.zero_and, BitVec.zero_and,
    timerReset_clken_reserved _ _⟩

/-- Settles O19: pc starts at 0 with no micro-step pending, and the draws reach no reserved bit. -/
theorem invariantsHoldAtReset : Obligations.InvariantsHoldAtReset :=
  ⟨⟨Nat.zero_le _, fun h => absurd rfl h⟩, launch_reservedClear _ _⟩

/-- Settles O15: CS and the flags are 0 at reset, so nothing counts and nothing is pending; a drawn CLKEN decides between
the two phases. -/
theorem resetEnablesOnlyController : Obligations.ResetEnablesOnlyController := by
  intro cfg program a
  refine ⟨fun ha => ?_, fun p => ?_⟩
  · cases a with
    | controller => rfl
    | counter p =>
      obtain ⟨k, hk⟩ := launch_timer cfg program p
      obtain ⟨-, hcs, -⟩ := (enabled_counter_iff _ p).1 ha
      rw [hk] at hcs
      exact absurd rfl hcs
    | refresh p x =>
      obtain ⟨k, hk⟩ := launch_timer cfg program p
      obtain ⟨-, hifl, -⟩ := (enabled_refresh_iff _ p x).1 ha
      rw [hk] at hifl
      simp [Timer.ifl, Timer.reset] at hifl
  · obtain ⟨k, hk⟩ := launch_timer cfg program p
    have hcs : (Timer.reset p.width k).cs = 0 := rfl
    have hA : (Timer.reset p.width k).ctrlA = 0 := rfl
    have hB : (Timer.reset p.width k).ctrlB = 0 := rfl
    rw [State.phase, hk]
    cases hen : (Timer.reset p.width k).en <;> simp [hcs, hA, hB, ctrlARun]

end Sys2Proof.Machine

/-! Proofs about the converter's two orders, the durations, and the frame of WR with what RD reads after it
(41_converter.md R148, 70_reset_and_hazards.md R290, 42_register_access.md R160 to R163). -/

namespace Sys2Proof.Machine

/-! ### The two orders of the pre-division (41_converter.md R148) -/

theorem outRange_t16_eq (f : Freq) : outRange .t16 f = 16000 ∨ outRange .t16 f = 32000 := by
  cases f
  · exact .inl rfl
  · exact .inr rfl

/-- Settles O30: without truncations the two are quotients of products with a constant range. -/
theorem convOrdersDifferByAtMostOne : Obligations.ConvOrdersDifferByAtMostOne := by
  intro f n hlo hhi
  rw [scale16_eq .inputFirst f n hhi, scale16_eq .scaleFirst f n hhi]
  obtain hr | hr := outRange_t16_eq f <;> rw [hr] <;> dsimp only <;> omega

/-! ### The nominal durations (70_reset_and_hazards.md R290) -/

theorem nominalTickMicros_t8 (f : Freq) : nominalTickMicros .t8 f = 8 := by
  norm_num [nominalTickMicros, fullPeriod]

/-- Settles O17: FullPeriod over the ticks of a full count, times the number of ticks. -/
theorem nominalDurations : Obligations.NominalDurations := by
  have href : nominalTickMicros .t16 .ref = 1 / 16 := by norm_num [nominalTickMicros, fullPeriod]
  have halt : nominalTickMicros .t16 .alt = 1 / 32 := by norm_num [nominalTickMicros, fullPeriod]
  refine ⟨href, halt, nominalTickMicros_t8, ?_, ?_, fun f => ?_, ?_, fun f => ?_⟩ <;>
    norm_num [ticksMicros, href, halt, nominalTickMicros_t8]

/-! ### What WR leaves (42_register_access.md R161) -/

section
variable (s : State) (p : Periph) (r : Reg) (v : Operand)

/-- A write of one peripheral's register leaves TOP of the other. -/
theorem writeReg_top_ne {q : Periph} (h : q ≠ p) : (s.writeReg p r v).top q = s.top q := by
  cases q with
  | t8 => rfl
  | t16 =>
    cases p with
    | t16 => exact absurd rfl h
    | t8 => cases r <;> rfl

/-- The raw bits of P's registers are those of P's state. -/
theorem regBits_congr {s t : State} {p : Periph} (h : s.samePeriph t p) (r : Reg) : s.regBits p r = t.regBits p r := by
  cases p with
  | t16 => simp only [State.regBits, State.timer, h.1, h.2]
  | t8 => simp only [State.regBits, State.timer, show s.t8 = t.t8 from h]

/-- A write leaves the raw bits of every other register, and of the other peripheral. -/
theorem regBits_writeReg_ne {q : Periph} {r' : Reg} (h : q ≠ p ∨ r' ≠ r) :
    (s.writeReg p r v).regBits q r' = s.regBits q r' := by
  by_cases hq : q = p
  · subst hq
    have hr : r' ≠ r := h.resolve_left (not_not_intro rfl)
    cases r <;> cases q <;> cases r' <;> first | rfl | exact absurd rfl hr
  · exact regBits_congr (samePeriph_iff.2 ⟨writeReg_timer_ne s p r v q hq, writeReg_top_ne s p r v hq⟩) r'

/-- A write leaves everything but the registers of the two peripherals. -/
theorem writeReg_frame :
    s.writeReg p r v =
      { s with t16 := (s.writeReg p r v).t16, per := (s.writeReg p r v).per, t8 := (s.writeReg p r v).t8 } := by
  cases r <;> cases p <;> rfl

end

theorem readReg_writeReg {s : State} {p : Periph} {r : Reg} {v : Operand} (hwf : (Instr.wr p r v).wf = true) :
    (s.writeReg p r v).readReg p r = if r = .iflg then s.readReg p r &&& ~~~v else v := by
  obtain ⟨hp, hv⟩ := Bool.and_eq_true_iff.1 hwf
  split
  · next hr => subst hr; exact readReg_writeReg_iflg s p v
  · next hr => exact readReg_writeReg_same s p r v hp hv hr

/-- Settles O31: a WR that is no hazard is the write and the completion, which touches no register. -/
theorem wrWritesOneRegister : Obligations.WrWritesOneRegister := by
  intro p r v s hwf hw hcs
  have hno : ¬ s.hazard p r = true := fun h => (hazard_iff.1 h).2 (hcs (hazard_iff.1 h).1)
  refine ⟨_, exec_wr_of_no_hazard hwf hw hno, ?_, fun q r' h => ?_, fun q x => ?_, ?_⟩
  · rw [complete_readReg, readReg_writeReg hwf]
  · rw [← regBits_writeReg_ne s p r v h]
    exact regBits_congr (samePeriph_iff.2 ⟨complete_timer _ _ _, complete_top _ _ _⟩) r'
  · rw [complete_timer, writeReg_oc]
  · rw [writeReg_frame]
    rfl

/-- Settles O34: the completion of the WR changes no register, so the RD reads what the write left. -/
theorem rdAfterWrReturnsValue : Obligations.RdAfterWrReturnsValue := by
  intro p r v s hwf hw hr hcs
  have hno : ¬ s.hazard p r = true := fun h =>
    (hazard_iff.1 h).2 (hcs ((hazard_iff.1 h).1.resolve_right hr))
  obtain ⟨hp, -⟩ := Bool.and_eq_true_iff.1 hwf
  refine ⟨_, _, exec_wr_of_no_hazard hwf hw hno, exec_rd hp (by simpa using hw), ?_⟩
  rw [complete_resp, complete_readReg, readReg_writeReg hwf, if_neg hr]
  rfl

end Sys2Proof.Machine

/-! Proofs about the timer operations with nothing interleaved: the first step, the run to completion, the registers it
leaves and the phase (43_timer_operations.md R180 to R197, 10_state.md R52). -/

namespace Sys2Proof.Machine

/-! ### Micro-steps do not read µq, and write neither FAULT nor REFUSED -/

section
variable (s : State) (q : List MicroStep)

theorem writeReg_setQueue (p : Periph) (r : Reg) (v : Operand) :
    (s.setQueue q).writeReg p r v = (s.writeReg p r v).setQueue q := by
  cases r <;> cases p <;> rfl

theorem effect_setQueue (m : MicroStep) : m.effect (s.setQueue q) = (m.effect s).setQueue q := by
  cases m with
  | w p r v => exact writeReg_setQueue s q p r v
  | dirOr p b =>
    simp only [MicroStep.effect, setQueue_timer]
    exact writeReg_setQueue s q p .dir _

theorem effects_setQueue (ms : List MicroStep) : effects ms (s.setQueue q) = (effects ms s).setQueue q := by
  induction ms generalizing s with
  | nil => rfl
  | cons m ms ih => rw [effects_cons, effects_cons, effect_setQueue, ih]

@[simp] theorem effects_fault (ms : List MicroStep) : (effects ms s).fault = s.fault := by
  induction ms generalizing s with
  | nil => rfl
  | cons m ms ih => rw [effects_cons, ih, effect_fault]

@[simp] theorem effects_refused (ms : List MicroStep) : (effects ms s).refused = s.refused := by
  induction ms generalizing s with
  | nil => rfl
  | cons m ms ih => rw [effects_cons, ih, effect_refused]

@[simp] theorem setQueue_setQueue (q' : List MicroStep) : (s.setQueue q).setQueue q' = s.setQueue q' := rfl

end

/-! ### A command run to completion (43_timer_operations.md R193) -/

/-- The state in which some micro-steps have been executed, the last of them completing the command. -/
def State.ran (s : State) (ms : List MicroStep) : State := ((effects ms s).setQueue []).complete ⟨0, statusOk⟩

theorem ran_cons (s : State) (q : List MicroStep) (m : MicroStep) (ms : List MicroStep) :
    ((m.effect s).setQueue q).ran ms = s.ran (m :: ms) := by
  rw [State.ran, State.ran, effects_setQueue, setQueue_setQueue, effects_cons]

/-- While the counter of P is stopped until the last micro-step, the pending micro-steps run to the end. -/
theorem drain_eq_ran {p : Periph} {ms : List MicroStep} {s : State} (hl : s.halted = false) (huq : s.uq = ms)
    (hms : ms ≠ []) (hstop : StoppedUntilLast p ms s) : s.drain ms.length = s.ran ms := by
  induction ms generalizing s with
  | nil => exact absurd rfl hms
  | cons m rest ih =>
    have hdrain : s.drain (rest.length + 1) = (s.runMicro s.fetch (m :: rest)).drain rest.length := by
      simp [State.drain, huq, hl]
    rw [List.length_cons, hdrain]
    obtain ⟨h, -⟩ | ⟨-, hrest, h⟩ | ⟨-, hrest, h⟩ := runMicro_cases s s.fetch m rest
    · simp [(outline_stoppedUntilLast p).no_hazard hstop] at h
    · rw [h, ih (by simpa [State.halted] using hl) rfl hrest ((outline_stoppedUntilLast p).micro hstop hrest), ran_cons]
    · rw [h, hrest]
      rfl

/-- A composite command that begins by stopping the counter of P. -/
def StopsFirst (p : Periph) (steps : List MicroStep) : Prop :=
  ∃ m rest, steps = .w p .ctrlB 0 :: m :: rest ∧ ClockLast p (m :: rest)

section
variable {s : State} {i : Instr} {p : Periph} {vs : List Nat} {steps : List MicroStep} (hl : s.live)
  (hw : s.cfg.hasTimerHw = true)
include hl hw

/-- If the checks pass, such a command runs to completion. -/
theorem runCommand_eq_ran (hwf : i.wf = true) (hv : ∀ v ∈ vs, v ≤ outMax p s.cfg.fCpu)
    (hexec : exec i s = .next (s.composite i p vs steps)) (hsteps : StopsFirst p steps) :
    s.runCommand i = .next (s.ran steps) := by
  obtain ⟨m, rest, rfl, hlast⟩ := hsteps
  have hfirst : s.composite i p vs (.w p .ctrlB 0 :: m :: rest) = (s.writeReg p .ctrlB 0).setQueue (m :: rest) :=
    checked_pass s hwf hw (by simpa using hv)
  have hhalted : s.halted = false := (halted_eq_false_iff s).2 hl
  rw [State.runCommand, hexec, hfirst]
  refine congrArg Host.Outcome.next ((drain_eq_ran (p := p) ?_ rfl (List.cons_ne_nil _ _) ⟨?_, hlast⟩).trans ?_)
  · simpa [State.halted] using hhalted
  · rw [setQueue_timer, writeReg_ctrlB_zero_cs]
  · exact ran_cons s _ (.w p .ctrlB 0) _

theorem runCommand_prepare (p : Periph) : s.runCommand (.prepare p) = .next (s.ran (prep s.cfg p)) :=
  runCommand_eq_ran (vs := []) hl hw rfl (by simp) rfl ⟨_, _, rfl, by cases p <;> simp [ClockLast]⟩

theorem runCommand_stop (p : Periph) : s.runCommand (.stop p) = .next (s.ran (stopSteps p)) :=
  runCommand_eq_ran (vs := []) hl hw rfl (by simp) rfl ⟨_, _, rfl, by simp [ClockLast]⟩

end

theorem stopsFirst_pulse (cfg : Config) (p : Periph) (pulsed : Channel → Option Nat) (pins : Byte) :
    StopsFirst p (prep cfg p ++ pulseTail cfg p pulsed pins) :=
  ⟨_, _, rfl, clockLast_pulseTail cfg p pulsed pins⟩

/-- The values PULSE pulses, by channel. -/
def pulsedBoth (a b : Nat) : Channel → Option Nat
  | .a => some a
  | .b => some b

/-- The value a command for one channel pulses, by channel. -/
def pulsedOnly (x : Channel) (v : Nat) (y : Channel) : Option Nat := if y = x then some v else none

section
variable {s : State} {p : Periph} (hl : s.live) (hw : s.cfg.hasTimerHw = true)
include hl hw

theorem runCommand_pulse {a b : BitVec 16} (ha : a.toNat ≤ outMax p s.cfg.fCpu) (hb : b.toNat ≤ outMax p s.cfg.fCpu) :
    s.runCommand (.pulse p a b) =
      .next (s.ran (prep s.cfg p ++ pulseTail s.cfg p (pulsedBoth a.toNat b.toNat) 0x03)) :=
  runCommand_eq_ran hl hw (pulse_wf ha hb) (by simp [ha, hb]) (exec_pulse s p a b) (stopsFirst_pulse _ _ _ _)

theorem runCommand_pulseA {v : Operand} (hv : v.toNat ≤ outMax p s.cfg.fCpu) :
    s.runCommand (.pulseA p v) =
      .next (s.ran (prep s.cfg p ++ pulseTail s.cfg p (pulsedOnly .a v.toNat) 0x01)) :=
  runCommand_eq_ran hl hw (pulseA_wf hv) (by simpa using hv) (exec_pulseA s p v) (stopsFirst_pulse _ _ _ _)

theorem runCommand_pulseB {v : Operand} (hv : v.toNat ≤ outMax p s.cfg.fCpu) :
    s.runCommand (.pulseB p v) =
      .next (s.ran (prep s.cfg p ++ pulseTail s.cfg p (pulsedOnly .b v.toNat) 0x02)) :=
  runCommand_eq_ran hl hw (pulseB_wf hv) (by simpa using hv) (exec_pulseB s p v) (stopsFirst_pulse _ _ _ _)

end

/-! ### The registers a command leaves (43_timer_operations.md R184, R187 to R192) -/

section
variable (s : State)

theorem effects_prep_t16 (cfg : Config) :
    effects (prep cfg .t16) s = { s with
      t16 := { s.t16 with ctrlA := 0x07, ctrlB := 0, cnt := 0xFFFF, clken := 1, imsk := 0x03, iflg := 0 }
      per := BitVec.ofNat 16 (outMax .t16 cfg.fCpu) } := by
  have hmax : (BitVec.ofNat 32 Periph.t16.max).setWidth Periph.t16.width = 0xFFFF := rfl
  simp [prep, MicroStep.effect, State.writeReg, State.timer, State.setTimer, Reg.widthMask, ctrlARun, hmax]

theorem effects_prep_t8 (cfg : Config) :
    effects (prep cfg .t8) s = { s with
      t8 := { s.t8 with
        ctrlA := 0x07, ctrlB := 0, cnt := 0xFF, clken := 1, imsk := 0x03, iflg := 0, cmpA := 0xFF } } := by
  have hmax : (BitVec.ofNat 32 Periph.t8.max).setWidth Periph.t8.width = 0xFF := rfl
  have hpin : (255#32).setWidth Periph.t8.width = 0xFF := rfl
  simp [prep, MicroStep.effect, State.writeReg, State.timer, State.setTimer, Reg.widthMask, ctrlARun, hmax, hpin]

theorem effects_stopSteps (p : Periph) :
    effects (stopSteps p) s = s.setTimer p { s.timer p with ctrlA := 0, ctrlB := 0, clken := 0 } := by
  simp [stopSteps, MicroStep.effect, State.writeReg]

theorem ran_pulse_t16 (pulsed : Channel → Option Nat) (pins : Byte) :
    s.ran (prep s.cfg .t16 ++ pulseTail s.cfg .t16 pulsed pins) = { s with
      t16 := { s.t16 with
        ctrlA := 0x07, ctrlB := BitVec.ofNat 8 (s.cfg.csStart.t16.get s.cfg.fCpu).value, cnt := 0xFFFF, clken := 1
        imsk := 0x03, iflg := 0, cmpA := pulsedCmp s.cfg .t16 (pulsed .a) s.t16.cmpA
        cmpB := pulsedCmp s.cfg .t16 (pulsed .b) s.t16.cmpB, dir := (s.t16.dir ||| pins) &&& 0x03 }
      per := BitVec.ofNat 16 (outMax .t16 s.cfg.fCpu), uq := [], resp := ⟨0, 0⟩, pc := s.pc + 1 } := by
  rw [State.ran, effects_append, effects_prep_t16, effects_pulseTail]
  rfl

theorem ran_pulse_t8 (pulsed : Channel → Option Nat) (pins : Byte) :
    s.ran (prep s.cfg .t8 ++ pulseTail s.cfg .t8 pulsed pins) = { s with
      t8 := { s.t8 with
        ctrlA := 0x07, ctrlB := BitVec.ofNat 8 (s.cfg.csStart.t8.get s.cfg.fCpu).value, cnt := 0xFF, clken := 1
        imsk := 0x03, iflg := 0, cmpA := pulsedCmp s.cfg .t8 (pulsed .a) 0xFF
        cmpB := pulsedCmp s.cfg .t8 (pulsed .b) s.t8.cmpB, dir := (s.t8.dir ||| pins) &&& 0x03 }
      uq := [], resp := ⟨0, 0⟩, pc := s.pc + 1 } := by
  rw [State.ran, effects_append, effects_prep_t8, effects_pulseTail]
  rfl

end

theorem inv_eq_ofNat {p : Periph} {f : Freq} {v : Nat} (h : v ≤ outMax p f) :
    inv p f v = BitVec.ofNat p.width (outMax p f - v) := by
  rw [← toNat_inv h, BitVec.ofNat_toNat, BitVec.setWidth_eq]

theorem pulsedCmp_some {cfg : Config} {p : Periph} {v : Nat} (h : v ≤ outMax p cfg.fCpu) (old : BitVec p.width) :
    pulsedCmp cfg p (some v) old = BitVec.ofNat p.width (outMax p cfg.fCpu - v) := inv_eq_ofNat h

/-- Both pins are outputs after PULSE, whatever DIR was. -/
theorem or_both_pins (d : Byte) : (d ||| 0x03) &&& 0x03 = 0x03 := by
  ext i hi
  interval_cases i <;> simp

/-- Settles O38: PREPARE's micro-steps are those of the preparation. -/
theorem prepareConfiguresPeripheral : Obligations.PrepareConfiguresPeripheral := by
  intro s hl hw
  rw [runCommand_prepare hl hw, runCommand_prepare hl hw, State.ran, State.ran, effects_prep_t16, effects_prep_t8]
  exact ⟨rfl, rfl⟩

/-- Settles O43: STOP's three micro-steps each clear one register. -/
theorem stopClearsModeRegisters : Obligations.StopClearsModeRegisters := by
  intro p s hl hw
  rw [runCommand_stop hl hw, State.ran, effects_stopSteps]
  cases p <;> rfl

/-- Settles O40: PULSE adds both compare writes, both pins and the clock start to the preparation. -/
theorem pulseLoadsBothChannels : Obligations.PulseLoadsBothChannels := by
  intro a b s hl hw
  refine ⟨fun ha hb => ?_, fun ha hb => ?_⟩
  · rw [runCommand_pulse hl hw ha hb, ran_pulse_t16, or_both_pins, pulsedBoth, pulsedBoth, pulsedCmp_some ha,
      pulsedCmp_some hb]
  · have ha' : a.toNat ≤ outMax .t8 s.cfg.fCpu := by rwa [outMax_t8]
    have hb' : b.toNat ≤ outMax .t8 s.cfg.fCpu := by rwa [outMax_t8]
    rw [runCommand_pulse hl hw ha' hb', ran_pulse_t8, or_both_pins, pulsedBoth, pulsedBoth, pulsedCmp_some ha',
      pulsedCmp_some hb', outMax_t8]

/-- Settles O41: PULSEA adds the compare write and the pin of channel A. -/
theorem pulseALoadsChannelA : Obligations.PulseALoadsChannelA := by
  intro v s hl hw
  refine ⟨fun hv => ?_, fun hv => ?_⟩
  · rw [runCommand_pulseA hl hw hv, ran_pulse_t16, pulsedOnly, if_pos rfl, pulsedCmp_some hv]
    rfl
  · have hv' : v.toNat ≤ outMax .t8 s.cfg.fCpu := by rwa [outMax_t8]
    rw [runCommand_pulseA hl hw hv', ran_pulse_t8, pulsedOnly, if_pos rfl, pulsedCmp_some hv', outMax_t8]
    rfl

/-- Settles O42: PULSEB adds the compare write and the pin of channel B; the preparation pins CMPA on T8. -/
theorem pulseBLoadsChannelB : Obligations.PulseBLoadsChannelB := by
  intro v s hl hw
  refine ⟨fun hv => ?_, fun hv => ?_⟩
  · rw [runCommand_pulseB hl hw hv, ran_pulse_t16, pulsedOnly, pulsedOnly, if_pos rfl, pulsedCmp_some hv]
    rfl
  · have hv' : v.toNat ≤ outMax .t8 s.cfg.fCpu := by rwa [outMax_t8]
    rw [runCommand_pulseB hl hw hv', ran_pulse_t8, pulsedOnly, pulsedOnly, if_pos rfl, pulsedCmp_some hv', outMax_t8]
    rfl

/-! ### The phase (10_state.md R52, 43_timer_operations.md R186, R195) -/

section
variable {s : State} {p : Periph}

/-- A clock-select code as CTRLB starts the counter. -/
theorem cs_of_code {w : Nat} {t : Timer w} {c : CsCode} (h : t.ctrlB = BitVec.ofNat 8 c.value) : t.cs ≠ 0 := by
  rw [Timer.cs, h]
  cases c <;> decide

theorem en_of_clken {w : Nat} {t : Timer w} (h : t.clken = 0x01) : t.en = true := by
  rw [Timer.en, h]
  rfl

theorem phase_running {c : CsCode} (hB : (s.timer p).ctrlB = BitVec.ofNat 8 c.value) (hen : (s.timer p).en = true) :
    s.phase p = .running := by
  simp [State.phase, hen, cs_of_code hB]

theorem phase_configured (hA : (s.timer p).ctrlA = 0x07) (hB : (s.timer p).ctrlB = 0) (hC : (s.timer p).clken = 1) :
    s.phase p = .configured := by
  simp [State.phase, Timer.en, Timer.cs, ctrlARun, hA, hB, hC]

theorem phase_stopped (hA : (s.timer p).ctrlA = 0) (hB : (s.timer p).ctrlB = 0) (hC : (s.timer p).clken = 0) :
    s.phase p = .stopped := by
  simp [State.phase, Timer.en, Timer.cs, ctrlARun, hA, hB, hC]

theorem en_of_phase_configured (h : s.phase p = .configured) : (s.timer p).en = true := by
  cases hen : (s.timer p).en with
  | true => rfl
  | false =>
    simp only [State.phase, hen, Bool.false_and, Bool.and_false, Bool.false_eq_true, if_false] at h
    split at h <;> cases h

end

section
variable (s : State) (p : Periph)

@[simp] theorem ran_timer (ms : List MicroStep) : (s.ran ms).timer p = (effects ms s).timer p := by
  simp [State.ran]

/-- A pulse with nothing interleaved leaves the registers of R197 as a pulse under any interleaving does. -/
theorem ran_pulse_timer (pulsed : Channel → Option Nat) (pins : Byte) :
    (s.ran (prep s.cfg p ++ pulseTail s.cfg p pulsed pins)).timer p =
      { s.timer p with
        ctrlA := 0x07, ctrlB := BitVec.ofNat 8 ((s.cfg.csStart.get p).get s.cfg.fCpu).value
        cnt := BitVec.allOnes p.width, clken := 0x01, imsk := 0x03, iflg := 0
        cmpA := pulsedCmp s.cfg p (pulsed .a) (preparedCmp p .a (s.timer p).cmpA)
        cmpB := pulsedCmp s.cfg p (pulsed .b) (s.timer p).cmpB
        dir := ((s.timer p).dir ||| pins) &&& 0x03 } :=
  timer_of_pulsed .refl (samePeriph_iff.2 ⟨ran_timer s p _, by simp [State.ran]⟩)

theorem ran_pulse_running (pulsed : Channel → Option Nat) (pins : Byte) :
    (s.ran (prep s.cfg p ++ pulseTail s.cfg p pulsed pins)).phase p = .running :=
  phase_running (by rw [ran_pulse_timer]) (en_of_clken (by rw [ran_pulse_timer]))

theorem ran_stop_timer :
    (s.ran (stopSteps p)).timer p = { s.timer p with ctrlA := 0, ctrlB := 0, clken := 0 } := by
  rw [ran_timer, effects_stopSteps, setTimer_timer]

theorem ran_stop_stopped : (s.ran (stopSteps p)).phase p = .stopped :=
  phase_stopped (by rw [ran_stop_timer]) (by rw [ran_stop_timer]) (by rw [ran_stop_timer])

theorem ran_prep_configured : (s.ran (prep s.cfg p)).phase p = .configured := by
  have htimer := (ran_timer s p (prep s.cfg p)).trans (effects_prep_timer s s.cfg p)
  exact phase_configured (by rw [htimer]) (by rw [htimer]) (by rw [htimer])

end

section
variable {s : State} {p : Periph} (hw : s.cfg.hasTimerHw = true)
include hw

theorem exec_start :
    exec (.start p) s = .next ((((clockStart s.cfg p).effect s).setQueue []).complete ⟨0, statusOk⟩) :=
  congrArg Host.Outcome.next (checked_pass s (i := .start p) rfl hw rfl)

theorem runCommand_start :
    s.runCommand (.start p) = .next ((((clockStart s.cfg p).effect s).setQueue []).complete ⟨0, statusOk⟩) := by
  rw [State.runCommand, exec_start hw]
  rfl

end

/-- Settles O39: START's one micro-step is the last of its command. -/
theorem startWritesClockSelect : Obligations.StartWritesClockSelect := by
  intro p s hw
  rw [exec_start hw, clockStart_effect]
  cases p <;> rfl

/-- Settles O37: the first micro-step of each list clears CTRLB of P. -/
theorem compositeExecutesFirstMicroStep : Obligations.CompositeExecutesFirstMicroStep := by
  intro p a b v s hw first
  have hfirst (rest : List MicroStep) : (s.writeReg p .ctrlB 0).setQueue rest = first rest := by cases p <;> rfl
  refine ⟨?_, ?_, fun ha hb => ?_, fun hv => ⟨?_, ?_⟩⟩
  · rw [← hfirst]
    exact congrArg Host.Outcome.next (checked_pass s (i := .prepare p) rfl hw rfl)
  · rw [← hfirst]
    exact congrArg Host.Outcome.next (checked_pass s (i := .stop p) rfl hw rfl)
  · rw [exec_pulse, composite_admitted (pulse_wf ha hb) hw (by simp [ha, hb]), hfirst]
    rfl
  · rw [exec_pulseA, composite_admitted (pulseA_wf hv) hw (by simpa using hv), hfirst]
    rfl
  · rw [exec_pulseB, composite_admitted (pulseB_wf hv) hw (by simpa using hv), hfirst]
    rfl

/-- Settles O47: each command runs to completion, and the registers it leaves give the phase. -/
theorem phaseAfterEachOperation : Obligations.PhaseAfterEachOperation := by
  intro p a b v s hl hw
  refine ⟨⟨_, runCommand_prepare hl hw p, ran_prep_configured s p⟩, fun hphase => ⟨_, runCommand_start hw, ?_⟩,
    fun ha hb => ⟨_, runCommand_pulse hl hw ha hb, ran_pulse_running s p _ _⟩,
    fun hv => ⟨⟨_, runCommand_pulseA hl hw hv, ran_pulse_running s p _ _⟩,
      _, runCommand_pulseB hl hw hv, ran_pulse_running s p _ _⟩,
    _, runCommand_stop hl hw p, ran_stop_stopped s p⟩
  have htimer : ((((clockStart s.cfg p).effect s).setQueue []).complete ⟨0, statusOk⟩).timer p =
      { s.timer p with ctrlB := BitVec.ofNat 8 ((s.cfg.csStart.get p).get s.cfg.fCpu).value } := by
    rw [complete_timer, setQueue_timer, clockStart_effect, setTimer_timer]
  exact phase_running (by rw [htimer]) (by rw [htimer]; exact en_of_phase_configured hphase)

/-- Settles O46: the state a pulse leaves is live and has the hardware, so STOP runs from it and keeps DIR. -/
theorem pulseThenStopIsStopped : Obligations.PulseThenStopIsStopped := by
  intro p a b s hl hw ha hb
  refine ⟨_, _, runCommand_pulse hl hw ha hb, runCommand_stop ?_ ?_ p, ?_⟩
  · simpa [State.live, State.ran] using hl
  · simpa [State.ran] using hw
  · refine ⟨?_, ?_, ?_, ?_, ran_stop_stopped _ p⟩
    · rw [ran_stop_timer]
    · rw [ran_stop_timer]
    · rw [ran_stop_timer]
    · rw [ran_stop_timer, ran_pulse_timer]
      exact or_both_pins _

end Sys2Proof.Machine

/-! Proofs about the refresh units beside the other agents: they commute with each other and with the other peripheral's
counter, and a fair execution serves them (60_exceptions.md R254, 20_memory.md R85, 70_reset_and_hazards.md R294). -/

namespace Sys2Proof.Machine

theorem after_pair {s t u : State} {a b : Agent} (ht : s.take a = some t) (hu : t.take b = some u) :
    s.after [a, b] = some u := by
  rw [after_cons, ht, Option.bind_some, after_cons, hu, Option.bind_some, after_nil]

section
variable {s : State} {p : Periph} {x : Channel}

theorem take_refresh (h : s.enabled (.refresh p x) = true) : s.take (.refresh p x) = some (s.refreshStep p x) :=
  (take_eq_some s).2 ⟨h, rfl⟩

theorem take_counter (h : s.enabled (.counter p) = true) : s.take (.counter p) = some (s.counterStep p) :=
  (take_eq_some s).2 ⟨h, rfl⟩

/-- What keeps a refresh enabled: its flag and mask, the hardware, and a machine that has not halted. -/
theorem enabled_refresh_of_kept {t : State} (h : s.enabled (.refresh p x) = true) (hhalted : t.halted = false)
    (hcfg : t.cfg = s.cfg) (hifl : (t.timer p).ifl x = (s.timer p).ifl x) (hie : (t.timer p).ie x = (s.timer p).ie x) :
    t.enabled (.refresh p x) = true := by
  rw [enabled_refresh_iff] at h ⊢
  rw [hcfg, hifl, hie]
  exact ⟨hhalted, h.2⟩

@[simp] theorem refreshStep_halted (q : Periph) (y : Channel) : (s.refreshStep q y).halted = s.halted := by
  simp [State.halted]

@[simp] theorem refreshStep_ie (q : Periph) (y : Channel) : ((s.refreshStep q y).timer p).ie x = (s.timer p).ie x := by
  by_cases hp : p = q
  · subst hp; simp [Timer.ie]
  · rw [refreshStep_timer_ne s q p y hp]

theorem bitNo_inj {x y : Channel} : x.bitNo = y.bitNo ↔ x = y := by cases x <;> cases y <;> decide

/-- A refresh of another channel leaves the flag. -/
theorem refreshStep_ifl_ne {q : Periph} {y : Channel} (h : (q, y) ≠ (p, x)) :
    ((s.refreshStep q y).timer p).ifl x = (s.timer p).ifl x := by
  by_cases hp : p = q
  · subst hp
    exact refreshStep_iflg_ne s p y fun hb => h (by rw [bitNo_inj.1 hb])
  · rw [refreshStep_timer_ne s q p y hp]

theorem refreshStep_keeps_enabled {q : Periph} {y : Channel} (h : s.enabled (.refresh p x) = true)
    (hne : (q, y) ≠ (p, x)) : (s.refreshStep q y).enabled (.refresh p x) = true :=
  enabled_refresh_of_kept h (by simpa using enabled_live s h) (refreshStep_cfg s q y) (refreshStep_ifl_ne hne)
    (refreshStep_ie q y)

end

/-! ### Two refreshes (60_exceptions.md R254) -/

section
variable (s : State)

@[simp] theorem refreshValue_refreshStep (p q : Periph) (x : Channel) :
    (s.refreshStep p x).refreshValue q = s.refreshValue q :=
  refreshValue_congr (refreshStep_cfg s p x) (refreshStep_top s p q x)

theorem refreshStep_eq_setTimer (p : Periph) (x : Channel) :
    s.refreshStep p x =
      s.setTimer p { (s.timer p).setCmp x (s.refreshValue p) with iflg := (s.timer p).iflg &&& ~~~x.mask } := by
  rw [State.refreshStep, setCmp_iflg]

theorem refreshStep_comm {p q : Periph} {x y : Channel} (h : (p, x) ≠ (q, y)) :
    (s.refreshStep p x).refreshStep q y = (s.refreshStep q y).refreshStep p x := by
  rw [refreshStep_eq_setTimer (s.refreshStep p x), refreshStep_eq_setTimer (s.refreshStep q y),
    refreshValue_refreshStep, refreshValue_refreshStep]
  by_cases hq : q = p
  · subst hq
    have hflags : (s.timer q).iflg &&& ~~~x.mask &&& ~~~y.mask = (s.timer q).iflg &&& ~~~y.mask &&& ~~~x.mask := by
      rw [BitVec.and_assoc, BitVec.and_comm (~~~x.mask), ← BitVec.and_assoc]
    rw [refreshStep_timer, refreshStep_timer, hflags, refreshStep_eq_setTimer, refreshStep_eq_setTimer,
      setTimer_setTimer, setTimer_setTimer]
    cases x <;> cases y <;> rfl
  · rw [refreshStep_timer_ne s p q x hq, refreshStep_timer_ne s q p y (Ne.symm hq), refreshStep_eq_setTimer s p x,
      refreshStep_eq_setTimer s q y]
    exact setTimer_comm s p q _ _ hq

end

/-- Settles O56: each leaves the other enabled, and they write different registers and flags. -/
theorem refreshesCommute : Obligations.RefreshesCommute := by
  intro s p q x y hne hp hq
  refine ⟨_, after_pair (take_refresh hp) (take_refresh (refreshStep_keeps_enabled hq hne)), ?_⟩
  rw [refreshStep_comm s hne]
  exact after_pair (take_refresh hq) (take_refresh (refreshStep_keeps_enabled hp hne.symm))

/-! ### A refresh and a tick of the other peripheral (20_memory.md R85) -/

section
variable {s : State} {p q : Periph} {x : Channel} (hpq : p ≠ q) 
include hpq

theorem refreshStep_modelledMode : (s.refreshStep p x).modelledMode q = s.modelledMode q := by
  simp only [State.modelledMode, refreshStep_cfg, refreshStep_timer_ne s p q x hpq.symm]

theorem refreshStep_enabled_counter : (s.refreshStep p x).enabled (.counter q) = s.enabled (.counter q) := by
  simp only [State.enabled, refreshStep_halted, refreshStep_cfg, refreshStep_timer_ne s p q x hpq.symm]

variable (hm : s.modelledMode q = true)
include hm

theorem counterStep_keeps_refresh (h : s.enabled (.refresh p x) = true) :
    (s.counterStep q).enabled (.refresh p x) = true := by
  have htimer := counterStep_timer_ne s q p hpq
  refine enabled_refresh_of_kept h ?_ (counterStep_cfg s q) (by rw [htimer]) (by rw [htimer])
  rw [counterStep_ticks s q hm]
  simpa [State.halted] using enabled_live s h

theorem counterStep_refreshStep_comm :
    (s.refreshStep p x).counterStep q = (s.counterStep q).refreshStep p x := by
  have hm' : (s.refreshStep p x).modelledMode q = true := by rw [refreshStep_modelledMode hpq, hm]
  have hvalue : (s.counterStep q).refreshValue p = s.refreshValue p :=
    refreshValue_congr (counterStep_cfg s q) (counterStep_top s q p)
  rw [counterStep_ticks _ q hm', refreshStep_timer_ne s p q x hpq.symm, refreshStep_top]
  simp only [State.refreshStep, hvalue, counterStep_timer_ne s q p hpq]
  rw [counterStep_ticks s q hm, setTimer_comm _ _ _ _ _ hpq]

end

/-- Settles O57: each leaves the other enabled and reads what the other does not write. -/
theorem peripheralsAreIndependent : Obligations.PeripheralsAreIndependent := by
  intro s p q x hpq hm hp hq
  refine ⟨_, after_pair (take_refresh hp) (take_counter ((refreshStep_enabled_counter hpq).trans hq)), ?_⟩
  rw [counterStep_refreshStep_comm hpq hm]
  exact after_pair (take_counter hq) (take_refresh (counterStep_keeps_refresh hpq hm hp))

/-! ### A fair execution serves a refresh (70_reset_and_hazards.md R294) -/

/-- The program has ended, nothing has halted, and refresh(P, x) waits for its step. -/
def RefreshWaits (p : Periph) (x : Channel) (s : State) : Prop :=
  s.atEnd = true ∧ s.enabled (.refresh p x) = true

section
variable {s t : State} {p : Periph} {x : Channel}

theorem atEnd_iff : s.atEnd = true ↔ s.pc = s.program.length ∧ s.uq = [] ∧ s.halted = false := by
  simp [State.atEnd, and_assoc]

/-- At the end of the program the controller has no step. -/
theorem not_enabled_controller_of_atEnd (h : s.atEnd = true) : s.enabled .controller = false := by
  obtain ⟨hpc, huq, -⟩ := atEnd_iff.1 h
  simp [State.enabled, hpc, huq]

/-- The end of the program lasts over the steps of the other agents, while nothing halts. -/
theorem atEnd_of_agentStep {a : Agent} (ha : a ≠ .controller) (hs : s.atEnd = true) (h : s.agentStep a = .next t)
    (ht : t.halted = false) : t.atEnd = true := by
  obtain ⟨hpc, huq, -⟩ := atEnd_iff.1 hs
  obtain ⟨huq', hpc', -⟩ := agentStep_of_ne_controller ha h
  obtain ⟨-, hprogram⟩ := agentStep_fixed h
  exact atEnd_iff.2 ⟨by rw [hpc', hprogram, hpc], by rw [huq', huq], ht⟩

theorem counterStep_imsk (s : State) (p : Periph) : ((s.counterStep p).timer p).imsk = (s.timer p).imsk := by
  cases hm : s.modelledMode p with
  | true => rw [counterStep_ticks s p hm, setTimer_timer, tick_imsk]
  | false => rw [counterStep_faults s p hm, raiseFault_timer]

/-- A tick clears no flag and masks no interrupt. -/
theorem counterStep_keeps_pending (q : Periph) (h : s.enabled (.refresh p x) = true)
    (ht : (s.counterStep q).halted = false) : (s.counterStep q).enabled (.refresh p x) = true := by
  obtain ⟨-, hifl, hie, -⟩ := (enabled_refresh_iff s p x).1 h
  by_cases hpq : p = q
  · subst hpq
    refine enabled_refresh_of_kept h ht (counterStep_cfg s p) ?_ ?_
    · rw [hifl]; exact counterStep_iflg_mono s p hifl
    · rw [Timer.ie, counterStep_imsk, ← Timer.ie]
  · have htimer := counterStep_timer_ne s q p hpq
    exact enabled_refresh_of_kept h ht (counterStep_cfg s q) (by rw [htimer]) (by rw [htimer])

/-- A waiting refresh waits on over every step but its own, unless the step halts the machine. -/
theorem refreshWaits_take {a : Agent} (hs : RefreshWaits p x s) (ha : a ≠ .refresh p x) (h : s.take a = some t)
    (ht : t.halted = false) : RefreshWaits p x t := by
  obtain ⟨hend, hen⟩ := hs
  obtain ⟨hae, hstep⟩ := (take_eq_some s).1 h
  have hac : a ≠ .controller := by
    rintro rfl
    simp [not_enabled_controller_of_atEnd hend] at hae
  refine ⟨atEnd_of_agentStep hac hend hstep ht, ?_⟩
  cases a with
  | controller => exact absurd rfl hac
  | counter q =>
    obtain rfl := Host.Outcome.next.inj hstep
    exact counterStep_keeps_pending q hen ht
  | refresh q y =>
    obtain rfl := Host.Outcome.next.inj hstep
    exact refreshStep_keeps_enabled hen fun heq => ha (by cases heq; rfl)

end

/-- Settles O60: a refresh that is never served and never meets a halt would wait for ever, against weak fairness. -/
theorem fairExecutionServesRefresh : Obligations.FairExecutionServesRefresh := by
  intro e p x n hvalid hfair hend hen
  by_contra hnever
  push Not at hnever
  have hwaits (k : Nat) : RefreshWaits p x (e.state (n + k)) := by
    induction k with
    | zero => exact ⟨hend, hen⟩
    | succ k ih =>
      have hnothalted : (e.state (n + k + 1)).halted = false :=
        Bool.eq_false_iff.2 (hnever (n + k + 1) (by omega)).2
      have hstep := hvalid (n + k)
      cases ha : e.agent (n + k) with
      | none =>
        rw [ha] at hstep
        rw [← Nat.add_assoc, hstep.2]
        exact ih
      | some a =>
        rw [ha] at hstep
        have hne : a ≠ .refresh p x := fun heq => (hnever (n + k) (by omega)).1 (by rw [ha, heq])
        exact refreshWaits_take ih hne hstep hnothalted
  obtain ⟨m, hm, ha⟩ := hfair (.refresh p x) n fun m hm => by
    obtain ⟨k, rfl⟩ := Nat.exists_eq_add_of_le hm
    exact (hwaits k).2
  exact (hnever m hm).1 ha

end Sys2Proof.Machine

/-! Proofs about the waveform: the high time of a period of ticks, and the one pulse of a pulse command under the eager
schedule (44_counter_waveform.md R218 to R223). -/

namespace Sys2Proof.Machine

/-- The numbers below n in an interval. -/
theorem countP_range_interval (a b n : Nat) :
    (List.range n).countP (fun j => decide (a ≤ j ∧ j < b)) = min n b - a := by
  induction n with
  | zero => simp
  | succ n ih =>
    rw [List.range_succ, List.countP_append, ih, List.countP_singleton]
    split <;> simp_all <;> omega

/-- Over ticks of counter(P), the high time of an output is the number of ticks after which its latch is high. -/
theorem highTicks_eq_of_oc {p : Periph} {x : Channel} {state : Nat → State} {n a b : Nat}
    (hdir : ∀ j, ((state j).timer p).dirBit x = true) (hcom : ∀ j, ((state j).timer p).comEn x = true)
    (hoc : ∀ j, j < n → (((state j).timer p).oc x = true ↔ a ≤ j ∧ j < b)) :
    highTicks p x (List.replicate n (.counter p)) ((List.range n).map state) = min n b - a := by
  rw [highTicks_ticks, ← countP_range_interval]
  refine List.countP_congr fun j hj => ?_
  rw [beq_iff_eq, pin_eq_high, decide_eq_true_eq, ← hoc j (List.mem_range.1 hj)]
  simp [hdir, hcom]

/-! ### A period (44_counter_waveform.md R218) -/

/-- The registers of a timer j ticks into a period that began from `t₀`. -/
structure InPeriod {w : Nat} (t₀ : Timer w) (x : Channel) (j : Nat) (t : Timer w) : Prop where
  cnt : t.cnt.toNat = j
  oc : t.oc x = true ↔ (t₀.cmp x).toNat < j
  ifl : t.ifl x = true ↔ t₀.ifl x = true ∨ (t₀.cmp x).toNat < j
  cmp : t.cmp x = t₀.cmp x
  comEn : t.comEn x = true

section
variable {w : Nat} {t₀ t : Timer w} {x : Channel} {j : Nat} {top : BitVec w}

/-- A count below TOP does not wrap. -/
theorem not_wraps_of_lt (h : t.cnt.toNat < top.toNat) : ¬t.wraps top = true := by
  rw [wraps_iff]
  have := top.isLt
  omega

theorem InPeriod.tick (h : InPeriod t₀ x j t) (hj : j < top.toNat) : InPeriod t₀ x (j + 1) (t.tick top) := by
  have hwrap : ¬t.wraps top = true := not_wraps_of_lt (by rw [h.cnt]; exact hj)
  have hhit : t.hits top x = true ↔ j = (t₀.cmp x).toNat := by rw [hits_iff, h.cmp, h.cnt]; omega
  refine ⟨?_, ?_, ?_, ?_, ?_⟩
  · rw [tick_cnt_of_not_wraps _ _ hwrap, h.cnt]
  · rw [tick_oc_of_comEn_true _ _ h.comEn, hhit, h.oc, and_iff_right hwrap]
    omega
  · rw [tick_ifl, Bool.or_eq_true, hhit, h.ifl, or_assoc]
    refine or_congr_right ?_
    omega
  · rw [tick_cmp, h.cmp]
  · rw [tick_comEn, h.comEn]

/-- The tick from TOP begins the next period with the latch low. -/
theorem InPeriod.tick_top (h : InPeriod t₀ x top.toNat t) :
    (t.tick top).cnt = 0 ∧ (t.tick top).oc x = false ∧
      ((t.tick top).ifl x = true ↔ t₀.ifl x = true ∨ (t₀.cmp x).toNat ≤ top.toNat) := by
  have hwrap : t.wraps top = true := (wraps_iff t top).2 (.inl h.cnt)
  have hhit : t.hits top x = true ↔ top.toNat = (t₀.cmp x).toNat := by rw [hits_iff, h.cmp, h.cnt]; omega
  refine ⟨by rw [tick_cnt, if_pos hwrap], ?_, ?_⟩
  · rw [Bool.eq_false_iff, Ne, tick_oc_of_comEn_true _ _ h.comEn]
    exact fun hoc => hoc.1 hwrap
  · rw [tick_ifl, Bool.or_eq_true, hhit, h.ifl, or_assoc]
    refine or_congr_right ?_
    omega

end

section
variable {s : State} {p : Periph}

@[simp] theorem ticks_top (n : Nat) : (s.ticks p n).top p = s.top p := by
  induction n with
  | zero => rfl
  | succ n ih => rw [ticks_succ, counterStep_top, ih]

theorem ticks_timer_succ (hm : s.modelledMode p = true) (n : Nat) :
    (s.ticks p (n + 1)).timer p = ((s.ticks p n).timer p).tick (s.top p) := by
  rw [ticks_succ, counterStep_ticks _ p (by rw [modelledMode_ticks, hm]), setTimer_timer, ticks_top]

/-- A run of ticks leaves DIR and CTRLA. -/
theorem ticks_dirBit_comEn (hm : s.modelledMode p = true) (x : Channel) (n : Nat) :
    ((s.ticks p n).timer p).dirBit x = (s.timer p).dirBit x ∧
      ((s.ticks p n).timer p).comEn x = (s.timer p).comEn x := by
  induction n with
  | zero => exact ⟨rfl, rfl⟩
  | succ n ih => rw [ticks_timer_succ hm, tick_comEn, Timer.dirBit, tick_dir]; exact ih

end

/-- Settles O53: the period by induction over its ticks, and then the tick that wraps. -/
theorem highTimePerPeriod : Obligations.HighTimePerPeriod := by
  intro s p x hm hcom hcnt hoc top k tick
  have hperiod (j : Nat) (hj : j ≤ top) : InPeriod (s.timer p) x j (tick j) := by
    induction j with
    | zero => exact ⟨by simp [tick, hcnt], by simp [tick, hoc], by simp [tick], rfl, hcom⟩
    | succ j ih =>
      have hnext := (ih (by omega)).tick (top := s.top p) (by omega)
      rwa [← ticks_timer_succ hm] at hnext
  obtain ⟨hcnt', hoc', hifl'⟩ := (hperiod top le_rfl).tick_top
  rw [← ticks_timer_succ hm] at hcnt' hoc' hifl'
  refine ⟨fun j hj => ⟨(hperiod j hj).cnt, (hperiod j hj).oc⟩, hcnt', hoc', fun j hj => ?_, ?_, fun hdir => ?_⟩
  · obtain hlt | rfl := Nat.lt_or_eq_of_le hj
    · rw [(hperiod j (by omega)).ifl]
      refine or_congr_right ?_
      omega
    · refine hifl'.trans (or_congr_right ?_)
      omega
  · rw [← List.countP_eq_length_filter, show top - k = min (top + 1) (top + 1) - (k + 1) by omega,
      ← countP_range_interval]
    refine List.countP_congr fun j hj => ?_
    have hj' := List.mem_range.1 hj
    rw [(hperiod j (by omega)).oc, decide_eq_true_eq]
    omega
  · rw [highTicks_eq_of_oc (a := k) (b := top) (fun j => (ticks_dirBit_comEn hm x _).1.trans hdir)
      (fun j => (ticks_dirBit_comEn hm x _).2.trans hcom)]
    · omega
    · intro j hj
      obtain hlt | rfl := Nat.lt_or_eq_of_le (Nat.le_of_lt_succ hj)
      · have := (hperiod (j + 1) (by omega)).oc
        rw [this]
        omega
      · simp [hoc']

/-! ### A refresh of the eager schedule -/

section
variable (s : State) (p : Periph) (x : Channel)

@[simp] theorem refreshIfEnabled_cfg : (s.refreshIfEnabled p x).cfg = s.cfg := by
  unfold State.refreshIfEnabled; split <;> simp
@[simp] theorem refreshIfEnabled_halted : (s.refreshIfEnabled p x).halted = s.halted := by
  unfold State.refreshIfEnabled; split <;> simp
@[simp] theorem refreshIfEnabled_top (q : Periph) : (s.refreshIfEnabled p x).top q = s.top q := by
  unfold State.refreshIfEnabled; split <;> simp
@[simp] theorem refreshIfEnabled_ctrlA : ((s.refreshIfEnabled p x).timer p).ctrlA = (s.timer p).ctrlA := by
  unfold State.refreshIfEnabled; split <;> simp
@[simp] theorem refreshIfEnabled_ctrlB : ((s.refreshIfEnabled p x).timer p).ctrlB = (s.timer p).ctrlB := by
  unfold State.refreshIfEnabled; split <;> simp
@[simp] theorem refreshIfEnabled_cnt : ((s.refreshIfEnabled p x).timer p).cnt = (s.timer p).cnt := by
  unfold State.refreshIfEnabled; split <;> simp
@[simp] theorem refreshIfEnabled_imsk : ((s.refreshIfEnabled p x).timer p).imsk = (s.timer p).imsk := by
  unfold State.refreshIfEnabled; split <;> simp
@[simp] theorem refreshIfEnabled_dir : ((s.refreshIfEnabled p x).timer p).dir = (s.timer p).dir := by
  unfold State.refreshIfEnabled; split <;> simp
@[simp] theorem refreshIfEnabled_oc (y : Channel) :
    ((s.refreshIfEnabled p x).timer p).oc y = (s.timer p).oc y := by
  unfold State.refreshIfEnabled; split
  · exact refreshStep_oc s p
  · rfl

theorem refreshIfEnabled_ne {y : Channel} (h : x ≠ y) :
    ((s.refreshIfEnabled p y).timer p).ifl x = (s.timer p).ifl x ∧
      ((s.refreshIfEnabled p y).timer p).cmp x = (s.timer p).cmp x := by
  unfold State.refreshIfEnabled
  split
  · exact ⟨refreshStep_ifl_ne fun heq => h (by cases heq; rfl), refreshStep_cmp_ne s p h⟩
  · exact ⟨rfl, rfl⟩

end

/-- The machine runs with the hardware, and the interrupt of the channel is enabled. -/
def ServesRefresh (s : State) (p : Periph) (x : Channel) : Prop :=
  s.halted = false ∧ s.cfg.hasTimerHw = true ∧ (s.timer p).ie x = true

/-- The flag of x is clear in `t`, and CMPx took REFRESH_VALUE if the flag was set in `s`, and else is kept. -/
def RefreshServed (s : State) (p : Periph) (x : Channel) (t : State) : Prop :=
  (t.timer p).ifl x = false ∧
    (t.timer p).cmp x = if (s.timer p).ifl x = true then s.refreshValue p else (s.timer p).cmp x

section
variable {s : State} {p : Periph} {x : Channel}

theorem servesRefresh_refreshIfEnabled (y : Channel) (h : ServesRefresh s p x) :
    ServesRefresh (s.refreshIfEnabled p y) p x := by
  simpa [ServesRefresh, Timer.ie] using h

theorem refreshIfEnabled_served (h : ServesRefresh s p x) : RefreshServed s p x (s.refreshIfEnabled p x) := by
  obtain ⟨hl, hw, hie⟩ := h
  have hen : s.enabled (.refresh p x) = (s.timer p).ifl x := by simp [State.enabled, Timer.pending, hl, hw, hie]
  unfold RefreshServed State.refreshIfEnabled
  rw [hen]
  cases hifl : (s.timer p).ifl x with
  | true => exact ⟨refreshStep_iflg_same s p x, refreshStep_cmp_same s p⟩
  | false => exact ⟨hifl, rfl⟩

/-- Both refreshes in their order serve either channel: the other channel's refresh does not touch it. -/
theorem refreshBoth_served (h : ServesRefresh s p x) :
    RefreshServed s p x ((s.refreshIfEnabled p .a).refreshIfEnabled p .b) := by
  cases x with
  | a =>
    obtain ⟨hifl, hcmp⟩ := refreshIfEnabled_ne (s.refreshIfEnabled p .a) p .a (y := .b) (by decide)
    rw [RefreshServed, hifl, hcmp]
    exact refreshIfEnabled_served h
  | b =>
    obtain ⟨hifl, hcmp⟩ := refreshIfEnabled_ne s p .b (y := .a) (by decide)
    have hserved := refreshIfEnabled_served (servesRefresh_refreshIfEnabled .a h)
    have hvalue : (s.refreshIfEnabled p .a).refreshValue p = s.refreshValue p := refreshValue_congr (by simp) (by simp)
    rwa [RefreshServed, hifl, hcmp, hvalue] at hserved

end

/-! ### A tick under the eager schedule -/

/-- The registers and the configuration that no tick and no refresh of P writes are those of `s`, the mode is a described
one with both latches connected, both interrupts are enabled, and no refresh of x is pending. -/
structure Pulsing (s : State) (p : Periph) (x : Channel) (u : State) : Prop where
  cfg : u.cfg = s.cfg
  top : u.top p = s.top p
  dir : (u.timer p).dir = (s.timer p).dir
  mode : u.modelledMode p = true
  serves : ServesRefresh u p x
  comEn : (u.timer p).comEn x = true
  ifl : (u.timer p).ifl x = false

section
variable {s u : State} {p : Periph} {x : Channel}

theorem Pulsing.refreshValue (h : Pulsing s p x u) : u.refreshValue p = s.refreshValue p :=
  refreshValue_congr h.cfg h.top

/-- An eager tick is a tick, and CMPx takes REFRESH_VALUE at a match. -/
theorem Pulsing.eagerTick (h : Pulsing s p x u) :
    Pulsing s p x (u.eagerTick p) ∧
      ((u.eagerTick p).timer p).cnt = ((u.timer p).tick (s.top p)).cnt ∧
      ((u.eagerTick p).timer p).oc x = ((u.timer p).tick (s.top p)).oc x ∧
      ((u.eagerTick p).timer p).cmp x =
        if (u.timer p).hits (s.top p) x = true then s.refreshValue p else (u.timer p).cmp x := by
  have htick : u.counterStep p = u.setTimer p ((u.timer p).tick (s.top p)) := by
    rw [counterStep_ticks u p h.mode, h.top]
  have htimer : (u.counterStep p).timer p = (u.timer p).tick (s.top p) := by rw [htick, setTimer_timer]
  have hserves : ServesRefresh (u.counterStep p) p x := by
    obtain ⟨hl, hw, hie⟩ := h.serves
    exact ⟨by rw [htick]; simpa [State.halted] using hl, by simpa using hw, by rw [htimer]; exact hie⟩
  have hvalue : (u.counterStep p).refreshValue p = s.refreshValue p :=
    (refreshValue_congr (by simp) (by simp)).trans h.refreshValue
  obtain ⟨hifl, hcmp⟩ := refreshBoth_served hserves
  rw [htimer, hvalue, tick_ifl, h.ifl, Bool.false_or, tick_cmp] at hcmp
  refine ⟨⟨?_, ?_, ?_, ?_, ?_, ?_, hifl⟩, ?_, ?_, hcmp⟩
  · simpa [State.eagerTick] using h.cfg
  · simpa [State.eagerTick] using h.top
  · simpa [State.eagerTick, htimer] using h.dir
  · simpa [State.eagerTick, State.modelledMode, Timer.cs, Timer.pwm, htimer] using h.mode
  · exact servesRefresh_refreshIfEnabled _ (servesRefresh_refreshIfEnabled _ hserves)
  · simpa [State.eagerTick, Timer.comEn, htimer] using h.comEn
  · simp [State.eagerTick, htimer]
  · simp only [State.eagerTick, refreshIfEnabled_oc, htimer]

end

/-! ### One pulse (44_counter_waveform.md R219, R222) -/

/-- Where a pulse with compare value k stands after tick n: before the match, high, or over. From the match on CMPx holds
the refresh value. -/
inductive PulsePhase {w : Nat} (k : Nat) (top refresh : BitVec w) (x : Channel) (n : Nat) (t : Timer w) : Prop
  | waiting (hcnt : t.cnt.toNat + 1 = n) (hle : t.cnt.toNat ≤ k) (hcmp : (t.cmp x).toNat = k) (hoc : t.oc x = false)
  | high (hcnt : t.cnt.toNat + 1 = n) (hlt : k < t.cnt.toNat) (hle : t.cnt.toNat ≤ top.toNat) (hcmp : t.cmp x = refresh)
      (hoc : t.oc x = true)
  | finished (hn : top.toNat + 1 < n) (hle : t.cnt.toNat ≤ top.toNat) (hcmp : t.cmp x = refresh) (hoc : t.oc x = false)

section
variable {w k n : Nat} {top refresh : BitVec w} {x : Channel} {t : Timer w}

theorem PulsePhase.oc_iff (h : PulsePhase k top refresh x n t) :
    t.oc x = true ↔ k + 2 ≤ n ∧ n ≤ top.toNat + 1 := by
  cases h with
  | waiting hcnt hle hcmp hoc => rw [hoc]; simp; omega
  | high hcnt hlt hle hcmp hoc => rw [hoc]; simp; omega
  | finished hn hle hcmp hoc => rw [hoc]; simp; omega

/-- A tick that wraps clears a connected latch. -/
theorem tick_oc_of_wraps (hcom : t.comEn x = true) (h : t.wraps top = true) : (t.tick top).oc x = false := by
  rw [Bool.eq_false_iff, Ne, tick_oc_of_comEn_true _ _ hcom]
  exact fun hoc => hoc.1 h

/-- One eager tick moves a pulse on, `u` being the registers after it. -/
theorem PulsePhase.tick {u : Timer w} (h : PulsePhase k top refresh x n t) (hcom : t.comEn x = true)
    (hk : k ≤ top.toNat) (hrefresh : top.toNat ≤ refresh.toNat) (hcnt : u.cnt = (t.tick top).cnt)
    (hoc : u.oc x = (t.tick top).oc x) (hcmp : u.cmp x = if t.hits top x = true then refresh else t.cmp x) :
    PulsePhase k top refresh x (n + 1) u := by
  have hwraps (heq : t.cnt.toNat = top.toNat) : u.cnt.toNat = 0 ∧ u.oc x = false := by
    have hwrap : t.wraps top = true := (wraps_iff t top).2 (.inl heq)
    exact ⟨by rw [hcnt, tick_cnt_of_wraps _ _ hwrap], by rw [hoc, tick_oc_of_wraps hcom hwrap]⟩
  have hcounts (hlt : t.cnt.toNat < top.toNat) :
      u.cnt.toNat = t.cnt.toNat + 1 ∧ (u.oc x = true ↔ t.hits top x = true ∨ t.oc x = true) := by
    have hwrap := not_wraps_of_lt hlt
    exact ⟨by rw [hcnt, tick_cnt_of_not_wraps _ _ hwrap],
      by rw [hoc, tick_oc_of_comEn_true _ _ hcom, and_iff_right hwrap]⟩
  have hhit : t.hits top x = true ↔ t.cnt.toNat ≤ top.toNat ∧ t.cnt.toNat = (t.cmp x).toNat := hits_iff t top x
  cases h with
  | waiting hn hle hk' hlow =>
    have hhit' : t.hits top x = true ↔ t.cnt.toNat = k := by rw [hhit, hk']; omega
    by_cases hmatch : t.cnt.toNat = k
    · rw [if_pos (hhit'.2 hmatch)] at hcmp
      obtain heq | hlt := (hmatch.trans_le hk).eq_or_lt
      · obtain ⟨hzero, hlow'⟩ := hwraps heq
        exact .finished (by omega) (by omega) hcmp hlow'
      · obtain ⟨hsucc, hoc'⟩ := hcounts hlt
        exact .high (by omega) (by omega) (by omega) hcmp (hoc'.2 (.inl (hhit'.2 hmatch)))
    · have hmiss : ¬t.hits top x = true := mt hhit'.1 hmatch
      rw [if_neg hmiss] at hcmp
      obtain ⟨hsucc, hoc'⟩ := hcounts (by omega)
      exact .waiting (by omega) (by omega) (by rw [hcmp, hk']) (by rw [Bool.eq_false_iff, Ne, hoc']; simp [hmiss, hlow])
  | high hn hlt hle hR hhigh =>
    rw [hR, ite_self] at hcmp
    obtain heq | hlt' := hle.eq_or_lt
    · obtain ⟨hzero, hlow'⟩ := hwraps heq
      exact .finished (by omega) (by omega) hcmp hlow'
    · obtain ⟨hsucc, hoc'⟩ := hcounts hlt'
      exact .high (by omega) (by omega) (by omega) hcmp (hoc'.2 (.inr hhigh))
  | finished hn hle hR hlow =>
    rw [hR, ite_self] at hcmp
    obtain heq | hlt' := hle.eq_or_lt
    · obtain ⟨hzero, hlow'⟩ := hwraps heq
      exact .finished (by omega) (by omega) hcmp hlow'
    · obtain ⟨hsucc, hoc'⟩ := hcounts hlt'
      have hmiss : ¬t.hits top x = true := by rw [hhit, hR]; omega
      exact .finished (by omega) (by omega) hcmp (by rw [Bool.eq_false_iff, Ne, hoc']; simp [hmiss, hlow])

/-- The first tick, from the count MAX, wraps and matches nothing. -/
theorem pulsePhase_first {u : Timer w} (hmax : t.cnt = BitVec.allOnes w) (hcom : t.comEn x = true)
    (hk : (t.cmp x).toNat = k) (hne : k ≠ 2 ^ w - 1) (hcnt : u.cnt = (t.tick top).cnt)
    (hoc : u.oc x = (t.tick top).oc x) (hcmp : u.cmp x = if t.hits top x = true then refresh else t.cmp x) :
    PulsePhase k top refresh x 1 u := by
  have hmax' : t.cnt.toNat = 2 ^ w - 1 := by rw [hmax, BitVec.toNat_allOnes]
  have hwrap : t.wraps top = true := (wraps_iff t top).2 (.inr hmax')
  have hmiss : ¬t.hits top x = true := by rw [hits_iff, hmax', hk]; exact fun h => hne h.2.symm
  have hzero : u.cnt.toNat = 0 := by rw [hcnt, tick_cnt_of_wraps _ _ hwrap]
  exact .waiting (by omega) (by omega) (by rw [hcmp, if_neg hmiss, hk]) (by rw [hoc, tick_oc_of_wraps hcom hwrap])

end

section
variable (s : State) (p : Periph)

theorem top_le_refreshValue : (s.top p).toNat ≤ (s.refreshValue p).toNat := by
  unfold State.refreshValue
  split
  · rw [BitVec.toNat_allOnes]
    exact Nat.le_sub_one_of_lt (s.top p).isLt
  · exact le_rfl

/-- OutMax is below MAX on both peripherals (10_state.md R49). -/
theorem outMax_lt_max (f : Freq) : outMax p f < 2 ^ p.width - 1 := by
  cases p with
  | t16 => cases f <;> decide
  | t8 => simp only [outMax_t8]; decide

end

/-- The state a pulse of v on channel x leaves (43_timer_operations.md R197). -/
structure PulseLoaded (s : State) (p : Periph) (x : Channel) (v : Nat) : Prop where
  live : s.live
  hw : s.cfg.hasTimerHw = true
  mode : s.modelledMode p = true
  ctrlA : (s.timer p).ctrlA = 0x07
  cnt : (s.timer p).cnt = BitVec.allOnes p.width
  imsk : (s.timer p).imsk = 0x03
  iflg : (s.timer p).iflg = 0x00
  per : p = .t16 → s.per = BitVec.ofNat 16 (outMax .t16 s.cfg.fCpu)
  cmp : ((s.timer p).cmp x).toNat = outMax p s.cfg.fCpu - v

section
variable {s : State} {p : Periph} {x : Channel} {v : Nat} (h : PulseLoaded s p x v)
include h

theorem PulseLoaded.pulsing : Pulsing s p x s := by
  refine ⟨rfl, rfl, rfl, h.mode, ⟨(halted_eq_false_iff s).2 h.live, h.hw, ?_⟩, ?_, ?_⟩
  · rw [Timer.ie, h.imsk]; cases x <;> rfl
  · rw [Timer.comEn, h.ctrlA]; cases x <;> rfl
  · rw [Timer.ifl, h.iflg]; cases x <;> rfl

theorem PulseLoaded.top : (s.top p).toNat = match p with | .t16 => outMax .t16 s.cfg.fCpu | .t8 => 255 := by
  cases p with
  | t8 => rfl
  | t16 =>
    have htop : s.top .t16 = BitVec.ofNat 16 (outMax .t16 s.cfg.fCpu) := h.per rfl
    rw [htop, BitVec.toNat_ofNat, Nat.mod_eq_of_lt (outMax_lt .t16 _)]

theorem PulseLoaded.outMax_le_top : outMax p s.cfg.fCpu ≤ (s.top p).toNat := by
  rw [h.top]
  cases p with
  | t16 => exact le_rfl
  | t8 => simp

/-- After n + 1 eager ticks the pulse stands where tick n + 1 leaves it. -/
theorem PulseLoaded.eagerTicks (n : Nat) :
    Pulsing s p x (s.eagerTicks p (n + 1)) ∧
      PulsePhase (outMax p s.cfg.fCpu - v) (s.top p) (s.refreshValue p) x (n + 1) ((s.eagerTicks p (n + 1)).timer p) := by
  have hle : outMax p s.cfg.fCpu - v ≤ (s.top p).toNat := (Nat.sub_le _ _).trans h.outMax_le_top
  induction n with
  | zero =>
    have hne : outMax p s.cfg.fCpu - v ≠ 2 ^ p.width - 1 := by have := outMax_lt_max p s.cfg.fCpu; omega
    obtain ⟨hpulsing, hcnt, hoc, hcmp⟩ := h.pulsing.eagerTick
    exact ⟨hpulsing, pulsePhase_first h.cnt h.pulsing.comEn h.cmp hne hcnt hoc hcmp⟩
  | succ n ih =>
    obtain ⟨hpulsing, hphase⟩ := ih
    obtain ⟨hpulsing', hcnt, hoc, hcmp⟩ := hpulsing.eagerTick
    rw [eagerTicks_succ p s (n + 1)]
    exact ⟨hpulsing', hphase.tick hpulsing.comEn hle (top_le_refreshValue s p) hcnt hoc hcmp⟩

theorem PulseLoaded.oc_iff {n : Nat} (hn : 1 ≤ n) :
    ((s.eagerTicks p n).timer p).oc x = true ↔
      outMax p s.cfg.fCpu - v + 2 ≤ n ∧ n ≤ (s.top p).toNat + 1 := by
  obtain ⟨m, rfl⟩ := Nat.exists_eq_add_of_le' hn
  exact (h.eagerTicks m).2.oc_iff

/-- High from the tick after the match to the wrap: TOP − CMPx ticks. -/
theorem PulseLoaded.highTicks (hdir : (s.timer p).dirBit x = true) {n : Nat} (hn : (s.top p).toNat + 1 ≤ n) :
    highTicks p x (List.replicate n (.counter p)) ((List.range n).map fun j => s.eagerTicks p (j + 1)) =
      (s.top p).toNat - (outMax p s.cfg.fCpu - v) := by
  rw [highTicks_eq_of_oc (a := outMax p s.cfg.fCpu - v + 1) (b := (s.top p).toNat + 1)]
  · omega
  · intro j
    rw [Timer.dirBit, (h.eagerTicks j).1.dir]
    exact hdir
  · exact fun j => (h.eagerTicks j).1.comEn
  · intro j _
    rw [h.oc_iff (by omega)]
    omega

end

/-- Settles O54: the general count of ticks from CMPx to TOP, at the two peripherals' TOP. -/
theorem onePulsePerCommand : Obligations.OnePulsePerCommand := by
  intro s p x v hl hw hmode hA hcnt himsk hiflg hper hv hcmp
  have h : PulseLoaded s p x v := ⟨hl, hw, hmode, hA, hcnt, himsk, hiflg, hper, hcmp⟩
  refine ⟨fun n hn => ?_, fun hdir n hn => ?_⟩
  · rw [h.oc_iff hn, h.top]
    cases p with
    | t16 => exact Iff.rfl
    | t8 => rw [outMax_t8] at hv ⊢; dsimp only; omega
  · rw [h.highTicks hdir hn, h.top]
    cases p with
    | t16 => dsimp only; omega
    | t8 => rw [outMax_t8] at hv ⊢; dsimp only; omega

end Sys2Proof.Machine
